-- ==== Sys2Proof/Word.lean ====
section
/-! DEFINITION. The word types of the block: bytes of its read-only spaces and the fixed-width registers of 10_state.md. Signed and
ranged quantities that no rule treats as bits are Int or Nat (00_scope.md R13). -/

namespace Sys2Proof

/-- One byte of `seq_rom` or `sample_rom`, and every u8 or s8 field (R14, R132). -/
abbrev Byte := BitVec 8

/-- A u16 field: `tempo`, `muteMask`, `lfoDelay`, `frac` (R31, R37, R43, R50). -/
abbrev Half := BitVec 16

/-- A u24 byte offset as an operand spells it (R132). -/
abbrev Off24 := BitVec 24

/-- A u32 field: the synthetic `phase` (R50). -/
abbrev Word32 := BitVec 32

end Sys2Proof
end

