-- ==== Sys2Proof/Config.lean ====
section
/-! DEFINITION. The named choices of the implementation parameters of 00_scope.md R12 and the value of each in the reference profile. The
model takes every parameter as an argument: `DecodeProfile` (Sys2Proof/Decode.lean) and `Profile` (Machine/Profile.lean) hold one value of
each, the state type and every function of the machine depend on a `Profile` (R536), and `Profile.reference` is built from the values
here. -/

namespace Sys2Proof

/-- `LOW_BYTE_MODE` (R134, R135): the meaning of a byte below 0x80 at an opcode position. -/
inductive LowByteMode where
  | note
  | runningStatus
deriving DecidableEq, Repr

/-- `INTERP` (R385, R386): the PCM resampling mode. -/
inductive Interp where
  | carry
  | linear
deriving DecidableEq, Repr

/-- `ADPCM_DIFF` (R356): the form of the ADPCM difference computation. -/
inductive AdpcmDiff where
  | shift
  | exact
deriving DecidableEq, Repr

/-- The four voice classes (R20, R21); each has its own channel pool. -/
inductive VoiceClass where
  | pcm
  | square
  | wave
  | noise
deriving DecidableEq, Repr

namespace Config

/-- The greatest `N_TRACKS` (R12: "up to 16"; R37, R40, R101: indices 0 to 15): the size of every table indexed by track. -/
abbrev maxTracks : Nat := 16
/-- `N_TRACKS` (R12, R40). -/
def numTracks : Nat := 16
/-- `STACK_DEPTH` (R12, R44). -/
def stackDepth : Nat := 3
/-- `N_PCM` (R12, R46). -/
abbrev numPcm : Nat := 8
/-- `N_SQUARE` (R12, R46). -/
abbrev numSquare : Nat := 1
/-- `N_WAVE` (R12, R46). -/
abbrev numWave : Nat := 1
/-- `N_NOISE` (R12, R46). -/
abbrev numNoise : Nat := 1
/-- `ADPCM_STEPS` (R12, R354): the step table's entries. -/
def adpcmSteps : Nat := 89
/-- `TEMPO_THRESH` (R12, R272). -/
def tempoThresh : Nat := 240
/-- `TEMPO_RESET` (R12, R31). -/
def tempoReset : Half := 120#16
/-- `OUT_RATE` (R12): output samples per second per channel. -/
def outRate : Nat := 32768
/-- `SAMPLES_PER_FRAME` (R12): stereo samples per frame step. -/
def samplesPerFrame : Nat := 512
/-- `LOOP_THRESHOLD` (R12, R284); `none` means the fade-out never begins. -/
def loopThreshold : Option Nat := some 1
/-- `FADE_SAMPLES` (R12, R477). -/
def fadeSamples : Nat := 163840
/-- `FADE_EXP` (R12, R476). -/
def fadeExp : Nat := 2
/-- `ACCOUNT_LIMIT` (R12, R197). -/
def accountLimit : Nat := 16777216
/-- `EXEC_LIMIT` (R12, R192). -/
def execLimit : Nat := 65536
/-- `LOW_BYTE_MODE` (R12). -/
def lowByteMode : LowByteMode := .note
/-- `INTERP` (R12). -/
def interp : Interp := .carry
/-- `STRICT_VAROPS` (R12, R248). -/
def strictVarops : Bool := false
/-- `ADPCM_DIFF` (R12). -/
def adpcmDiff : AdpcmDiff := .shift
/-- `SYNTH_AMP` (R12, R406). -/
def synthAmp : Int := 8192
/-- `SEQ_SIZE_MAX` (R12, R100): 2^24. -/
def seqSizeMax : Nat := 16777216

end Config

/-- A track index (R40). -/
abbrev TrackId := Fin Config.maxTracks

end Sys2Proof
end

