-- ==== Sys2Proof/Machine/Arith.lean ====
section
/-! DEFINITION. The arithmetic primitives of 00_scope.md R14 and R15 on unbounded integers, and two maps over a fixed-size vector that
Lean's kernel evaluates. -/

namespace Sys2Proof.Machine

/-- `clamp(lo, hi, x)` (R15). -/
def clamp (lo hi x : Int) : Int := if x < lo then lo else if hi < x then hi else x

/-- `clamp_s16(x)` (R15). -/
def clampS16 (x : Int) : Int := clamp (-32768) 32767 x

/-- `x asr k` = floor(x / 2^k) (R15). -/
def asr (x : Int) (k : Nat) : Int := x / ((2 ^ k : Nat) : Int)

/-- `x quot y`: the quotient rounded toward zero (R15). -/
def quot (x y : Int) : Int := Int.tdiv x y

/-- `sext_8` (R14) of a byte held as a natural number below 256. -/
def sext8 (n : Nat) : Int := if n < 128 then n else (n : Int) - 256

/-- `sext_16` (R14) of a half held as a natural number below 65536. -/
def sext16 (n : Nat) : Int := if n < 32768 then n else (n : Int) - 65536

/-- The vector with `f` applied to each element. -/
def vecMap {α β : Type} {n : Nat} (f : α → β) (v : Vector α n) : Vector β n :=
  ⟨⟨v.toList.map f⟩, by simp⟩

/-- The vector whose element at index i is `f i`. -/
def vecOfFn {β : Type} {n : Nat} (f : Fin n → β) : Vector β n :=
  ⟨⟨(List.finRange n).map f⟩, by simp⟩

end Sys2Proof.Machine
end

