-- ==== Sys2Proof/Machine/Memory.lean ====
section
/-! DEFINITION. A read-only byte space of the block, `seq_rom` or `sample_rom` (20_memory.md R100, R105): a length and the bytes below
it. The bytes are a list of cells in one canonical form, addresses strictly rising, all below the length, and no cell equal to what an
unlisted address reads as. DESIGN CHOICE (log 1): an unlisted address below the length reads as 0; the list can spell every content,
since the song's loader states each byte. An address at or past the length does not exist: `read` answers none. No rule of the block
writes a space (R114); `store` and `ofBytes` are how the loader outside it sets the contents. -/

namespace Sys2Proof.Machine

/-- The contents of a byte space: `len` bytes, of which the non-zero ones are listed. -/
structure Memory where
  len : Nat
  cells : List Host.Cell
deriving DecidableEq, Repr

/-- A space of no bytes. -/
def Memory.empty : Memory := ⟨0, []⟩

/-- What an unlisted address below the length reads as (log 1). -/
def unlistedByte : Byte := 0#8

/-- The byte a cell list gives an address. -/
def cellAt : List Host.Cell → Nat → Byte
  | [], _ => unlistedByte
  | (a, b) :: cs, x => if a = x then b else cellAt cs x

/-- One byte of the space; none at or past its length (R100, R105). -/
def Memory.read (m : Memory) (a : Nat) : Option Byte := if a < m.len then some (cellAt m.cells a) else none

/-- The bytes from address `a` on, at most `n` of them and none past the end. -/
def Memory.bytesFrom (m : Memory) (a n : Nat) : List Byte := (List.range n).filterMap fun i => m.read (a + i)

/-- `SampleRead(a, 1)` and `SeqRead(a, 1)` as a number; 0 past the end, where no rule reads (R113, R183). -/
def Memory.byteNat (m : Memory) (a : Nat) : Nat := ((m.read a).getD 0#8).toNat

/-- Two bytes assembled little-endian (R107, R108). -/
def Memory.halfNat (m : Memory) (a : Nat) : Nat := m.byteNat a + 256 * m.byteNat (a + 1)

/-- The cell list with address `x` set to `b`, in canonical form when the list was. -/
def setCell : List Host.Cell → Nat → Byte → List Host.Cell
  | [], x, b => if b = unlistedByte then [] else [(x, b)]
  | (a, c) :: cs, x, b =>
    if x < a then if b = unlistedByte then (a, c) :: cs else (x, b) :: (a, c) :: cs
    else if x = a then if b = unlistedByte then cs else (x, b) :: cs
    else (a, c) :: setCell cs x b

/-- The loader's write of one byte; an address past the end is left alone. -/
def Memory.store (m : Memory) (a : Nat) (b : Byte) : Memory :=
  if a < m.len then { m with cells := setCell m.cells a b } else m

/-- The cells of bytes that start at address `a`. -/
def cellsOf : Nat → List Byte → List Host.Cell
  | _, [] => []
  | a, b :: bs => if b = unlistedByte then cellsOf (a + 1) bs else (a, b) :: cellsOf (a + 1) bs

/-- The space that holds exactly these bytes, from address 0. -/
def Memory.ofBytes (bs : List Byte) : Memory := ⟨bs.length, cellsOf 0 bs⟩

/-- The cells lie at rising addresses from `lo` on, below `len`, and none is what an unlisted address reads as. -/
def cellsWf : Nat → Nat → List Host.Cell → Bool
  | _, _, [] => true
  | lo, len, (a, b) :: cs => decide (lo ≤ a) && decide (a < len) && decide (b ≠ unlistedByte) && cellsWf (a + 1) len cs

/-- The canonical form of a space. -/
def Memory.wf (m : Memory) : Bool := cellsWf 0 m.len m.cells

end Sys2Proof.Machine
end

