-- ==== Sys2Proof/Syntax.lean ====
section
/-! DEFINITION. The sequence commands: one constructor per row of spec/opcode_table.json, in the table's order, carrying the row's
operands only (30_encoding.md R131, R140). A u8, s8, u16, s16 or u24 operand is a bit vector of its width; `TrackOpen`'s track is an
index 0..15; a key (0..127) and a variable-length quantity (0 .. 2^28 - 1) are natural numbers whose range `WellFormed` checks. The
command's byte length is not an operand: a variable-length quantity may be spelled with leading 0x80 bytes (R133), so the length is
kept beside the command in the song table (R39). -/

namespace Sys2Proof

/-- A decoded sequence command (R131, R140). -/
inductive Instr where
  /-- 0x00 to 0x7F `note`: note-on, the key being the opcode byte (R134, R221). -/
  | note (key : Nat) (velocity : Byte) (duration : Nat)
  /-- 0x80 `rest` (R222). -/
  | rest (n : Nat)
  /-- 0x81 `voice` (R224). -/
  | voice (v : Nat)
  /-- 0x93 `open` (R247). -/
  | trackOpen (track : TrackId) (target : Off24)
  /-- 0x94 `jump` (R242). -/
  | jump (target : Off24)
  /-- 0x95 `call` (R243). -/
  | call (target : Off24)
  /-- 0xB0 `var.set` (R141, R248). -/
  | varSet (var : Byte) (imm : Half)
  /-- 0xB1 `var.add` (R141, R248). -/
  | varAdd (var : Byte) (imm : Half)
  /-- 0xB2 `var.sub` (R141, R248). -/
  | varSub (var : Byte) (imm : Half)
  /-- 0xB3 `var.mul` (R141, R248). -/
  | varMul (var : Byte) (imm : Half)
  /-- 0xB4 `var.div` (R141, R248). -/
  | varDiv (var : Byte) (imm : Half)
  /-- 0xB5 `var.shift` (R141, R248). -/
  | varShift (var : Byte) (imm : Half)
  /-- 0xB6 `var.rand` (R141, R248). -/
  | varRand (var : Byte) (imm : Half)
  /-- 0xB7 `var.reserved` (R141, R248). -/
  | varReserved (var : Byte) (imm : Half)
  /-- 0xB8 `var.eq` (R141, R248). -/
  | varEq (var : Byte) (imm : Half)
  /-- 0xB9 `var.ge` (R141, R248). -/
  | varGe (var : Byte) (imm : Half)
  /-- 0xBA `var.gt` (R141, R248). -/
  | varGt (var : Byte) (imm : Half)
  /-- 0xBB `var.le` (R141, R248). -/
  | varLe (var : Byte) (imm : Half)
  /-- 0xBC `var.lt` (R141, R248). -/
  | varLt (var : Byte) (imm : Half)
  /-- 0xBD `var.ne` (R141, R248). -/
  | varNe (var : Byte) (imm : Half)
  /-- 0xC0 `pan` (R227). -/
  | pan (x : Byte)
  /-- 0xC1 `vol` (R225). -/
  | vol (x : Byte)
  /-- 0xC3 `transpose` (R230). -/
  | transpose (s : Byte)
  /-- 0xC4 `bend` (R228). -/
  | bend (s : Byte)
  /-- 0xC5 `bendrange` (R229). -/
  | bendrange (x : Byte)
  /-- 0xC6 `prio` (R231). -/
  | prio (x : Byte)
  /-- 0xCA `lfodepth` (R236). -/
  | lfodepth (x : Byte)
  /-- 0xCB `lfospeed` (R237). -/
  | lfospeed (x : Byte)
  /-- 0xCC `lfotarget` (R240). -/
  | lfotarget (x : Byte)
  /-- 0xCD `lforange` (R238). -/
  | lforange (x : Byte)
  /-- 0xD0 `attack` (R232). -/
  | attack (x : Byte)
  /-- 0xD1 `decay` (R233). -/
  | decay (x : Byte)
  /-- 0xD2 `sustain` (R234). -/
  | sustain (x : Byte)
  /-- 0xD3 `release` (R235). -/
  | release (x : Byte)
  /-- 0xD4 `loop` (R245). -/
  | loop (count : Byte)
  /-- 0xD5 `expr` (R226). -/
  | expr (x : Byte)
  /-- 0xE0 `lfodelay` (R239). -/
  | lfodelay (x : Half)
  /-- 0xE1 `tempo` (R241). -/
  | tempo (x : Half)
  /-- 0xF0 `tie`: note-on of duration -1 (R221). -/
  | tie (key : Nat) (velocity : Byte)
  /-- 0xF1 `eot` (R223). -/
  | eot (key : Nat)
  /-- 0xF2 `notec`: note-on by a control byte (R221). -/
  | notec (key : Nat) (velocity : Byte) (duration : Nat)
  /-- 0xFC `loopend` (R246). -/
  | loopend
  /-- 0xFD `ret` (R244). -/
  | ret
  /-- 0xFF `fine` (R249). -/
  | fine
deriving DecidableEq, Repr

/-- The kind of a control command: what a `CTRL_MAP` entry names beside an operand format (R136, R140). -/
inductive CmdKind where
  | rest | voice | trackOpen | jump | call | varSet | varAdd | varSub | varMul | varDiv | varShift | varRand
  | varReserved | varEq | varGe | varGt | varLe | varLt | varNe | pan | vol | transpose | bend | bendrange
  | prio | lfodepth | lfospeed | lfotarget | lforange | attack | decay | sustain | release | loop | expr
  | lfodelay | tempo | tie | eot | notec | loopend | ret | fine
deriving DecidableEq, Repr

/-- The operand field types (R132). -/
inductive Field where
  | u8
  | s8
  | u16
  | s16
  | u24
  | vlq
deriving DecidableEq, Repr

/-- What `CTRL_MAP` gives a control byte (R12, R136): a command kind and its operand format. -/
structure CtrlEntry where
  kind : CmdKind
  format : List Field
deriving DecidableEq, Repr

/-- A `CTRL_MAP` (R12): the entry of each control byte, none for `unknown` (R136). -/
abbrev CtrlMap := Byte → Option CtrlEntry

end Sys2Proof
end

