-- ==== Sys2Proof/WellFormed.lean ====
section
/-! DEFINITION. The operand ranges of 30_encoding.md R131 and R137 that the types of `Instr` do not already enforce: a key operand is
0..127 and a variable-length quantity is 0 .. 2^28 - 1. -/

namespace Sys2Proof

/-- A key operand has bit 7 clear (R137). -/
def keyOk (key : Nat) : Bool := decide (key < 128)

/-- A value of the variable-length form is at most 2^28 - 1 (R133). -/
def vlqOk (n : Nat) : Bool := decide (n < 268435456)

/-- The instruction's operands lie in the ranges of R131. -/
def Instr.wellFormed : Instr → Bool
  | .note key _ duration => keyOk key && vlqOk duration
  | .notec key _ duration => keyOk key && vlqOk duration
  | .tie key _ => keyOk key
  | .eot key => keyOk key
  | .rest n => vlqOk n
  | .voice v => vlqOk v
  | .trackOpen _ _ | .jump _ | .call _ => true
  | .varSet _ _ | .varAdd _ _ | .varSub _ _ | .varMul _ _ | .varDiv _ _ | .varShift _ _ | .varRand _ _ => true
  | .varReserved _ _ | .varEq _ _ | .varGe _ _ | .varGt _ _ | .varLe _ _ | .varLt _ _ | .varNe _ _ => true
  | .pan _ | .vol _ | .transpose _ | .bend _ | .bendrange _ | .prio _ => true
  | .lfodepth _ | .lfospeed _ | .lfotarget _ | .lforange _ | .lfodelay _ => true
  | .attack _ | .decay _ | .sustain _ | .release _ => true
  | .loop _ | .expr _ | .tempo _ | .loopend | .ret | .fine => true

/-- The instruction is well formed (R131, R137). -/
abbrev Instr.WellFormed (i : Instr) : Prop := i.wellFormed = true

end Sys2Proof
end

