-- ==== Sys2Proof/Decode.lean ====
section
/-! DEFINITION. The command decoder of 30_encoding.md, total on any list of bytes and rejecting by the name of the load error it
raises, and after it an encoder written from the reference map (R140). The decoder is given the bytes from an opcode position to the end of
the sequence, so running out of bytes is `OutOfBounds` (R132, R183). Checks run in byte order (R498): the opcode byte, then each operand
field in turn, its bounds before its range. -/

namespace Sys2Proof

/-- The kinds of fatal load error (R493). The decoder itself raises `outOfBounds`, `unknownOpcode`, `invalidRunningStatus`,
`badVarLen`, `badOperand` and `unsupported`; the walk and the accounting pass raise the others (R198). -/
inductive LoadErrorKind where
  | outOfBounds
  | unknownOpcode
  | invalidRunningStatus
  | badVarLen
  | badOperand
  | callStackOverflow
  | returnUnderflow
  | badLoopEnd
  | accountLimit
  | zeroTickLoop
  | unsupported
deriving DecidableEq, Repr

/-- The code of a load error kind on the `load_status` port (R493). -/
def LoadErrorKind.code : LoadErrorKind → Nat
  | .outOfBounds => 1
  | .unknownOpcode => 2
  | .invalidRunningStatus => 3
  | .badVarLen => 4
  | .badOperand => 5
  | .callStackOverflow => 6
  | .returnUnderflow => 7
  | .badLoopEnd => 8
  | .accountLimit => 9
  | .zeroTickLoop => 10
  | .unsupported => 11

/-- What a decoding step answers. -/
abbrev DecodeResult (α : Type) := Except LoadErrorKind α

/-! ## Operand fields (R132, R133) -/

/-- Two bytes assembled little-endian (R107). -/
def leHalf (b0 b1 : Byte) : Half := BitVec.ofNat 16 (b0.toNat + 256 * b1.toNat)

/-- Three bytes assembled little-endian (R107). -/
def leOff (b0 b1 b2 : Byte) : Off24 := BitVec.ofNat 24 (b0.toNat + 256 * b1.toNat + 65536 * b2.toNat)

/-- One byte of a field; past the end it raises `OutOfBounds` (R132). -/
def readByte {α : Type} (bs : List Byte) (k : Byte → List Byte → DecodeResult α) : DecodeResult α :=
  match bs with
  | [] => .error .outOfBounds
  | b :: r => k b r

/-- The two bytes of a field, low byte first (R107, R132). -/
def readHalf {α : Type} (bs : List Byte) (k : Half → List Byte → DecodeResult α) : DecodeResult α :=
  readByte bs fun b0 r => readByte r fun b1 r => k (leHalf b0 b1) r

/-- The three bytes of a field, low byte first (R107, R132). -/
def readOff {α : Type} (bs : List Byte) (k : Off24 → List Byte → DecodeResult α) : DecodeResult α :=
  readByte bs fun b0 r => readByte r fun b1 r => readByte r fun b2 r => k (leOff b0 b1 b2) r

/-- The loop of R133: `groups` bytes may still be read and `v` is the value so far; a byte with bit 7 set asks for one more. -/
def vlqLoop : Nat → Nat → List Byte → DecodeResult (Nat × List Byte)
  | 0, _, _ => .error .badVarLen
  | groups + 1, v, bs =>
    readByte bs fun b r =>
      if b.toNat < 128 then .ok (v * 128 + b.toNat, r) else vlqLoop groups (v * 128 + b.toNat % 128) r

/-- A `vlq` field of one to four bytes (R133). -/
def readVlq {α : Type} (bs : List Byte) (k : Nat → List Byte → DecodeResult α) : DecodeResult α :=
  match vlqLoop 4 0 bs with
  | .error e => .error e
  | .ok (v, r) => k v r

/-- The value of one operand field by its type (R132): `s8` is `sext_8` of its byte and `s16` is `sext_16` of its two bytes (R107). -/
def readField {α : Type} (f : Field) (bs : List Byte) (k : Int → List Byte → DecodeResult α) : DecodeResult α :=
  match f with
  | .u8 => readByte bs fun x r => k x.toNat r
  | .s8 => readByte bs fun x r => k x.toInt r
  | .u16 => readHalf bs fun x r => k x.toNat r
  | .s16 => readHalf bs fun x r => k x.toInt r
  | .u24 => readOff bs fun x r => k x.toNat r
  | .vlq => readVlq bs fun n r => k n r

/-- The values of the fields of a format, in order (R136). -/
def readFields {α : Type} : List Field → List Byte → (List Int → List Byte → DecodeResult α) → DecodeResult α
  | [], bs, k => k [] bs
  | f :: fs, bs, k => readField f bs fun v r => readFields fs r fun vs r' => k (v :: vs) r'

/-- The fields of a format, the first one's value held to the range `ok` before the next is read (R137, R498). -/
def readFormat {α : Type} (ok : Int → Bool) (format : List Field) (bs : List Byte)
    (k : List Int → List Byte → DecodeResult α) : DecodeResult α :=
  match format with
  | [] => k [] bs
  | f :: fs =>
    readField f bs fun v r => if ok v then readFields fs r fun vs r' => k (v :: vs) r' else .error .badOperand

/-! ## Commands from their fields (R131) -/

/-- A command with no operand. -/
def build0 (i : Instr) : List Int → Option Instr
  | [] => some i
  | _ => none

/-- A command of one field. -/
def build1 (mk : Int → Instr) : List Int → Option Instr
  | [x] => some (mk x)
  | _ => none

/-- A command of two fields. -/
def build2 (mk : Int → Int → Instr) : List Int → Option Instr
  | [x, y] => some (mk x y)
  | _ => none

/-- A command of three fields. -/
def build3 (mk : Int → Int → Int → Instr) : List Int → Option Instr
  | [x, y, z] => some (mk x y z)
  | _ => none

/-- The range R137 holds a kind's first operand to: a key is 0..127, the track of `TrackOpen` lies below `N_TRACKS`; no other operand of
any kind has one. -/
def CmdKind.firstOk (tracks : Nat) (kind : CmdKind) (v : Int) : Bool :=
  match kind with
  | .tie | .eot | .notec => decide (0 ≤ v ∧ v < 128)
  | .trackOpen => decide (0 ≤ v ∧ v < tracks)
  | .rest | .voice | .jump | .call | .pan | .vol | .transpose | .bend | .bendrange | .prio | .lfodepth | .lfospeed | .lfotarget => true
  | .varSet | .varAdd | .varSub | .varMul | .varDiv | .varShift | .varRand | .varReserved => true
  | .varEq | .varGe | .varGt | .varLe | .varLt | .varNe | .lforange | .attack | .decay | .sustain | .release | .loop | .expr => true
  | .lfodelay | .tempo | .loopend | .ret | .fine => true

/-- An operand of 0 .. 2^28 - 1 (R131), a value outside it taken modulo 2^28 (log 25). -/
def quantity (v : Int) : Nat := (v % 268435456).toNat

/-- The command of a kind with the values of its operands (R131), a value outside the operand's type taken modulo its size (log 25); none
where there are not as many values as the kind has operands. -/
def CmdKind.build : CmdKind → List Int → Option Instr
  | .rest => build1 fun n => .rest (quantity n)
  | .voice => build1 fun n => .voice (quantity n)
  | .trackOpen => build2 fun t x => .trackOpen (Fin.ofNat Config.maxTracks t.toNat) (BitVec.ofInt 24 x)
  | .jump => build1 fun x => .jump (BitVec.ofInt 24 x)
  | .call => build1 fun x => .call (BitVec.ofInt 24 x)
  | .varSet => build2 fun v x => .varSet (BitVec.ofInt 8 v) (BitVec.ofInt 16 x)
  | .varAdd => build2 fun v x => .varAdd (BitVec.ofInt 8 v) (BitVec.ofInt 16 x)
  | .varSub => build2 fun v x => .varSub (BitVec.ofInt 8 v) (BitVec.ofInt 16 x)
  | .varMul => build2 fun v x => .varMul (BitVec.ofInt 8 v) (BitVec.ofInt 16 x)
  | .varDiv => build2 fun v x => .varDiv (BitVec.ofInt 8 v) (BitVec.ofInt 16 x)
  | .varShift => build2 fun v x => .varShift (BitVec.ofInt 8 v) (BitVec.ofInt 16 x)
  | .varRand => build2 fun v x => .varRand (BitVec.ofInt 8 v) (BitVec.ofInt 16 x)
  | .varReserved => build2 fun v x => .varReserved (BitVec.ofInt 8 v) (BitVec.ofInt 16 x)
  | .varEq => build2 fun v x => .varEq (BitVec.ofInt 8 v) (BitVec.ofInt 16 x)
  | .varGe => build2 fun v x => .varGe (BitVec.ofInt 8 v) (BitVec.ofInt 16 x)
  | .varGt => build2 fun v x => .varGt (BitVec.ofInt 8 v) (BitVec.ofInt 16 x)
  | .varLe => build2 fun v x => .varLe (BitVec.ofInt 8 v) (BitVec.ofInt 16 x)
  | .varLt => build2 fun v x => .varLt (BitVec.ofInt 8 v) (BitVec.ofInt 16 x)
  | .varNe => build2 fun v x => .varNe (BitVec.ofInt 8 v) (BitVec.ofInt 16 x)
  | .pan => build1 fun x => .pan (BitVec.ofInt 8 x)
  | .vol => build1 fun x => .vol (BitVec.ofInt 8 x)
  | .transpose => build1 fun x => .transpose (BitVec.ofInt 8 x)
  | .bend => build1 fun x => .bend (BitVec.ofInt 8 x)
  | .bendrange => build1 fun x => .bendrange (BitVec.ofInt 8 x)
  | .prio => build1 fun x => .prio (BitVec.ofInt 8 x)
  | .lfodepth => build1 fun x => .lfodepth (BitVec.ofInt 8 x)
  | .lfospeed => build1 fun x => .lfospeed (BitVec.ofInt 8 x)
  | .lfotarget => build1 fun x => .lfotarget (BitVec.ofInt 8 x)
  | .lforange => build1 fun x => .lforange (BitVec.ofInt 8 x)
  | .attack => build1 fun x => .attack (BitVec.ofInt 8 x)
  | .decay => build1 fun x => .decay (BitVec.ofInt 8 x)
  | .sustain => build1 fun x => .sustain (BitVec.ofInt 8 x)
  | .release => build1 fun x => .release (BitVec.ofInt 8 x)
  | .loop => build1 fun x => .loop (BitVec.ofInt 8 x)
  | .expr => build1 fun x => .expr (BitVec.ofInt 8 x)
  | .lfodelay => build1 fun x => .lfodelay (BitVec.ofInt 16 x)
  | .tempo => build1 fun x => .tempo (BitVec.ofInt 16 x)
  | .tie => build2 fun k v => .tie k.toNat (BitVec.ofInt 8 v)
  | .eot => build1 fun k => .eot k.toNat
  | .notec => build3 fun k v d => .notec k.toNat (BitVec.ofInt 8 v) (quantity d)
  | .loopend => build0 .loopend
  | .ret => build0 .ret
  | .fine => build0 .fine

/-- The raw variable operations (R141, R248). -/
def Instr.isVarOp : Instr → Bool
  | .varSet _ _ | .varAdd _ _ | .varSub _ _ | .varMul _ _ | .varDiv _ _ | .varShift _ _ | .varRand _ _ => true
  | .varReserved _ _ | .varEq _ _ | .varGe _ _ | .varGt _ _ | .varLe _ _ | .varLt _ _ | .varNe _ _ => true
  | .note _ _ _ | .rest _ | .voice _ | .trackOpen _ _ | .jump _ | .call _ | .pan _ | .vol _ | .transpose _ | .bend _ => false
  | .bendrange _ | .prio _ | .lfodepth _ | .lfospeed _ | .lfotarget _ | .lforange _ | .attack _ | .decay _ | .sustain _ => false
  | .release _ | .loop _ | .expr _ | .lfodelay _ | .tempo _ | .tie _ _ | .eot _ | .notec _ _ _ | .loopend | .ret | .fine => false

/-! ## The decoder's parameters (R12) -/

/-- The reference `CTRL_MAP` (R140); every byte it does not list is `unknown` (R138). -/
def referenceCtrlMap (op : Byte) : Option CtrlEntry :=
  match op.toNat with
  | 0x80 => some ⟨.rest, [.vlq]⟩
  | 0x81 => some ⟨.voice, [.vlq]⟩
  | 0x93 => some ⟨.trackOpen, [.u8, .u24]⟩
  | 0x94 => some ⟨.jump, [.u24]⟩
  | 0x95 => some ⟨.call, [.u24]⟩
  | 0xB0 => some ⟨.varSet, [.u8, .s16]⟩
  | 0xB1 => some ⟨.varAdd, [.u8, .s16]⟩
  | 0xB2 => some ⟨.varSub, [.u8, .s16]⟩
  | 0xB3 => some ⟨.varMul, [.u8, .s16]⟩
  | 0xB4 => some ⟨.varDiv, [.u8, .s16]⟩
  | 0xB5 => some ⟨.varShift, [.u8, .s16]⟩
  | 0xB6 => some ⟨.varRand, [.u8, .s16]⟩
  | 0xB7 => some ⟨.varReserved, [.u8, .s16]⟩
  | 0xB8 => some ⟨.varEq, [.u8, .s16]⟩
  | 0xB9 => some ⟨.varGe, [.u8, .s16]⟩
  | 0xBA => some ⟨.varGt, [.u8, .s16]⟩
  | 0xBB => some ⟨.varLe, [.u8, .s16]⟩
  | 0xBC => some ⟨.varLt, [.u8, .s16]⟩
  | 0xBD => some ⟨.varNe, [.u8, .s16]⟩
  | 0xC0 => some ⟨.pan, [.u8]⟩
  | 0xC1 => some ⟨.vol, [.u8]⟩
  | 0xC3 => some ⟨.transpose, [.s8]⟩
  | 0xC4 => some ⟨.bend, [.s8]⟩
  | 0xC5 => some ⟨.bendrange, [.u8]⟩
  | 0xC6 => some ⟨.prio, [.u8]⟩
  | 0xCA => some ⟨.lfodepth, [.u8]⟩
  | 0xCB => some ⟨.lfospeed, [.u8]⟩
  | 0xCC => some ⟨.lfotarget, [.u8]⟩
  | 0xCD => some ⟨.lforange, [.u8]⟩
  | 0xD0 => some ⟨.attack, [.u8]⟩
  | 0xD1 => some ⟨.decay, [.u8]⟩
  | 0xD2 => some ⟨.sustain, [.u8]⟩
  | 0xD3 => some ⟨.release, [.u8]⟩
  | 0xD4 => some ⟨.loop, [.u8]⟩
  | 0xD5 => some ⟨.expr, [.u8]⟩
  | 0xE0 => some ⟨.lfodelay, [.u16]⟩
  | 0xE1 => some ⟨.tempo, [.u16]⟩
  | 0xF0 => some ⟨.tie, [.u8, .u8]⟩
  | 0xF1 => some ⟨.eot, [.u8]⟩
  | 0xF2 => some ⟨.notec, [.u8, .u8, .vlq]⟩
  | 0xFC => some ⟨.loopend, []⟩
  | 0xFD => some ⟨.ret, []⟩
  | 0xFF => some ⟨.fine, []⟩
  | _ => none

/-- The parameters of R12 on which decoding depends. -/
structure DecodeProfile where
  /-- `N_TRACKS`, at most 16 -/
  numTracks : Nat
  /-- `CTRL_MAP`; an entry whose format does not spell its kind's operands is log 25 -/
  ctrlMap : CtrlMap
  /-- `LOW_BYTE_MODE` -/
  lowByteMode : LowByteMode
  /-- `STRICT_VAROPS` -/
  strictVarops : Bool

/-- The reference profile's values (R12). -/
@[reducible] def DecodeProfile.reference : DecodeProfile where
  numTracks := Config.numTracks
  ctrlMap := referenceCtrlMap
  lowByteMode := Config.lowByteMode
  strictVarops := Config.strictVarops

/-! ## Control commands (R136, R138, R139) -/

/-- A command just read: with STRICT_VAROPS a raw variable operation is `Unsupported` (R248). -/
def accept (strict : Bool) (i : Instr) (r : List Byte) : DecodeResult (Instr × List Byte) :=
  if strict && i.isVarOp then .error .unsupported else .ok (i, r)

/-- The entry's format has as many fields as its kind has operands: the kind can be built from that many values. -/
def CtrlEntry.fits (e : CtrlEntry) : Bool := (e.kind.build (e.format.map fun _ => 0)).isSome

/-- The command a control byte spells, its operand fields read from `bs` (R132) and held to their ranges (R137), and the bytes left (R136).
DESIGN CHOICE (log 25): a map entry whose format has not as many fields as its kind has operands assigns no command; like a byte the map does
not list, it raises `UnknownOpcode` before any operand byte is read. -/
def decodeControl (D : DecodeProfile) (op : Byte) (bs : List Byte) : DecodeResult (Instr × List Byte) :=
  match D.ctrlMap op with
  | none => .error .unknownOpcode
  | some e =>
    if e.fits then
      readFormat (e.kind.firstOk D.numTracks) e.format bs fun vs r =>
        match e.kind.build vs with
        | none => .error .unknownOpcode
        | some i => accept D.strictVarops i r
    else .error .unknownOpcode

/-- The control bytes whose format has no operand field (R139). -/
def isBareControl (D : DecodeProfile) (op : Byte) : Bool :=
  match D.ctrlMap op with
  | none => false
  | some e => e.format.isEmpty

/-- The note range (R134): the opcode byte is the key, then `u8 vlq`. -/
def decodeNote (op : Byte) (bs : List Byte) : DecodeResult (Instr × List Byte) :=
  readByte bs fun v r => readVlq r fun d r => .ok (.note op.toNat v d, r)

/-- One decoded command (R182): the command, its byte length, the running-status byte after it, and the byte a running-status command
was decoded with (R184). -/
structure Decoded where
  cmd : Instr
  len : Nat
  rsNext : Option Byte
  viaRs : Option Byte
deriving DecidableEq, Repr

/-- `DecodeAt` (R182) on the bytes from the opcode position to the end of the sequence, with running-status byte `rs`. -/
def decodeAt (D : DecodeProfile) (rs : Option Byte) (bs : List Byte) : DecodeResult Decoded :=
  match bs with
  | [] => .error .outOfBounds
  | b :: r =>
    if b.toNat < 128 then
      match D.lowByteMode with
      | .note =>
        match decodeNote b r with
        | .error e => .error e
        | .ok (i, r') => .ok ⟨i, bs.length - r'.length, rs, none⟩
      | .runningStatus =>
        match rs with
        | none => .error .invalidRunningStatus
        | some c =>
          if isBareControl D c then .error .invalidRunningStatus
          else
            match decodeControl D c bs with
            | .error e => .error e
            | .ok (i, r') => .ok ⟨i, bs.length - r'.length, rs, some c⟩
    else
      match decodeControl D b r with
      | .error e => .error e
      | .ok (i, r') => .ok ⟨i, bs.length - r'.length, if isBareControl D b then rs else some b, none⟩

/-- The decoder of a profile at one opcode position with no running status: the command and its byte length. -/
def decodeWith (D : DecodeProfile) (bs : List Byte) : DecodeResult (Instr × Nat) :=
  match decodeAt D none bs with
  | .error e => .error e
  | .ok d => .ok (d.cmd, d.len)

/-- The decoder of the reference profile. -/
def decode (bs : List Byte) : DecodeResult (Instr × Nat) := decodeWith DecodeProfile.reference bs

/-! ## The encoder -/

/-- The shortest variable-length form of `n` (R133), for n below 2^28. -/
def encodeVlq (n : Nat) : List Byte :=
  if n < 128 then [BitVec.ofNat 8 n]
  else if n < 16384 then [BitVec.ofNat 8 (128 + n / 128), BitVec.ofNat 8 (n % 128)]
  else if n < 2097152 then
    [BitVec.ofNat 8 (128 + n / 16384), BitVec.ofNat 8 (128 + n / 128 % 128), BitVec.ofNat 8 (n % 128)]
  else
    [BitVec.ofNat 8 (128 + n / 2097152 % 128), BitVec.ofNat 8 (128 + n / 16384 % 128), BitVec.ofNat 8 (128 + n / 128 % 128),
      BitVec.ofNat 8 (n % 128)]

/-- The two bytes of a `u16` or `s16` field, low byte first (R107). -/
def halfBytes (x : Half) : List Byte := [BitVec.ofNat 8 x.toNat, BitVec.ofNat 8 (x.toNat / 256)]

/-- The three bytes of a `u24` field, low byte first (R107). -/
def offBytes (x : Off24) : List Byte :=
  [BitVec.ofNat 8 x.toNat, BitVec.ofNat 8 (x.toNat / 256), BitVec.ofNat 8 (x.toNat / 65536)]

/-- The opcode byte of an instruction (R140). -/
def opcodeOf : Instr → Byte
  | .note key _ _ => BitVec.ofNat 8 key
  | .rest _ => 0x80#8
  | .voice _ => 0x81#8
  | .trackOpen _ _ => 0x93#8
  | .jump _ => 0x94#8
  | .call _ => 0x95#8
  | .varSet _ _ => 0xB0#8
  | .varAdd _ _ => 0xB1#8
  | .varSub _ _ => 0xB2#8
  | .varMul _ _ => 0xB3#8
  | .varDiv _ _ => 0xB4#8
  | .varShift _ _ => 0xB5#8
  | .varRand _ _ => 0xB6#8
  | .varReserved _ _ => 0xB7#8
  | .varEq _ _ => 0xB8#8
  | .varGe _ _ => 0xB9#8
  | .varGt _ _ => 0xBA#8
  | .varLe _ _ => 0xBB#8
  | .varLt _ _ => 0xBC#8
  | .varNe _ _ => 0xBD#8
  | .pan _ => 0xC0#8
  | .vol _ => 0xC1#8
  | .transpose _ => 0xC3#8
  | .bend _ => 0xC4#8
  | .bendrange _ => 0xC5#8
  | .prio _ => 0xC6#8
  | .lfodepth _ => 0xCA#8
  | .lfospeed _ => 0xCB#8
  | .lfotarget _ => 0xCC#8
  | .lforange _ => 0xCD#8
  | .attack _ => 0xD0#8
  | .decay _ => 0xD1#8
  | .sustain _ => 0xD2#8
  | .release _ => 0xD3#8
  | .loop _ => 0xD4#8
  | .expr _ => 0xD5#8
  | .lfodelay _ => 0xE0#8
  | .tempo _ => 0xE1#8
  | .tie _ _ => 0xF0#8
  | .eot _ => 0xF1#8
  | .notec _ _ _ => 0xF2#8
  | .loopend => 0xFC#8
  | .ret => 0xFD#8
  | .fine => 0xFF#8

/-- The operand bytes of an instruction, in field order (R140). -/
def operandBytes : Instr → List Byte
  | .note _ velocity duration => velocity :: encodeVlq duration
  | .rest n => encodeVlq n
  | .voice n => encodeVlq n
  | .trackOpen i x => BitVec.ofNat 8 i.val :: offBytes x
  | .jump x => offBytes x
  | .call x => offBytes x
  | .varSet v imm => v :: halfBytes imm
  | .varAdd v imm => v :: halfBytes imm
  | .varSub v imm => v :: halfBytes imm
  | .varMul v imm => v :: halfBytes imm
  | .varDiv v imm => v :: halfBytes imm
  | .varShift v imm => v :: halfBytes imm
  | .varRand v imm => v :: halfBytes imm
  | .varReserved v imm => v :: halfBytes imm
  | .varEq v imm => v :: halfBytes imm
  | .varGe v imm => v :: halfBytes imm
  | .varGt v imm => v :: halfBytes imm
  | .varLe v imm => v :: halfBytes imm
  | .varLt v imm => v :: halfBytes imm
  | .varNe v imm => v :: halfBytes imm
  | .pan x => [x]
  | .vol x => [x]
  | .transpose x => [x]
  | .bend x => [x]
  | .bendrange x => [x]
  | .prio x => [x]
  | .lfodepth x => [x]
  | .lfospeed x => [x]
  | .lfotarget x => [x]
  | .lforange x => [x]
  | .attack x => [x]
  | .decay x => [x]
  | .sustain x => [x]
  | .release x => [x]
  | .loop x => [x]
  | .expr x => [x]
  | .lfodelay x => halfBytes x
  | .tempo x => halfBytes x
  | .tie k v => [BitVec.ofNat 8 k, v]
  | .eot k => [BitVec.ofNat 8 k]
  | .notec k v d => BitVec.ofNat 8 k :: v :: encodeVlq d
  | .loopend => []
  | .ret => []
  | .fine => []

/-- The bytes of a well-formed instruction, with every variable-length quantity in its shortest form (R130, R140). -/
def encode (i : Instr) : List Byte := opcodeOf i :: operandBytes i

/-! ## The opcode table's words -/

/-- The longest command of the reference map is 7 bytes (R130). -/
def maxCommandBytes : Nat := 7

/-- No map spells a longer command: an opcode byte and at most three operand fields of at most four bytes each (R131, R132). -/
def maxFormatBytes : Nat := 13

/-- The bytes of an instruction whose low `nbits` bits are `w`, byte 0 least significant, the bits above `nbits` zero. -/
def wordBytes (nbits w : Nat) : List Byte :=
  (List.range maxCommandBytes).map fun i => BitVec.ofNat 8 (w % 2 ^ nbits / 256 ^ i)

end Sys2Proof

/-- The instruction the decoder reads from an instruction whose bits are `w`, numbered as spec/opcode_table.json numbers them. -/
def Sys2Proof.decodeTableWord (nbits w : Nat) : Option Sys2Proof.Instr :=
  match Sys2Proof.decode (Sys2Proof.wordBytes nbits w) with
  | .ok (i, _) => some i
  | .error _ => none
end

