-- ==== Sys2Proof/Machine/Records.lean ====
section
/-! DEFINITION. The records on which the profile's laws depend: instrument records (20_memory.md R104, R106) and the envelope registers of a
channel (10_state.md R47, R49). -/

namespace Sys2Proof.Machine

/-! ## Instruments (20_memory.md R104, R106) -/

/-- The format of a sample region (R106). -/
inductive SampleFormat where
  | pcm8
  | pcm16
  | adpcm
deriving DecidableEq, Repr

/-- A sample region descriptor (R106). -/
structure Region where
  format : SampleFormat
  addr : Nat
  length : Nat
  loop : Bool
  loopStart : Nat
  rate : Nat
deriving DecidableEq, Repr

/-- The payload of an instrument record, by class (R104). -/
inductive Payload where
  | pcm (region : Region)
  | square (duty : Fin 4)
  | wave (table : Vector Byte 16)
  | noise (pattern : Fin 2)
deriving DecidableEq, Repr

/-- An instrument record (R104): its class is its payload's. -/
structure Instrument where
  a : Byte
  d : Byte
  s : Byte
  r : Byte
  baseNote : Nat
  fixedKey : Option Nat
  payload : Payload
deriving DecidableEq, Repr

/-- The voice class of an instrument is its payload's (R104). -/
def Instrument.cls (i : Instrument) : VoiceClass :=
  match i.payload with
  | .pcm _ => .pcm
  | .square _ => .square
  | .wave _ => .wave
  | .noise _ => .noise

/-! ## Envelope registers (R47, R49) -/

/-- `ch.state` (R47). -/
inductive EnvState where
  | initializing
  | attack
  | decay
  | sustain
  | releasing
  | dead
deriving DecidableEq, Repr

/-- What an envelope step reads of a channel (R312 to R317): its state, its level and its effective constants. -/
structure EnvPoint where
  state : EnvState
  level : Nat
  a : Byte
  d : Byte
  s : Byte
  r : Byte
deriving DecidableEq, Repr

/-- An envelope step law, a value of `ENV_LAW` (R12, R310): the state and the level after one step; the state `Dead` kills the channel (R320).
DESIGN CHOICE (log 28): the spec gives `ENV_LAW` no signature. The model lets a law read the channel's state, level and constants and nothing
else, answer any state and any level, and be a function; only the reference law is held to R310's levels 0..255. -/
abbrev EnvLaw := EnvPoint → EnvState × Nat

/-- A cents-to-step law (R327): from `OUT_RATE`, the class, the instrument and the cents. -/
abbrev FreqLaw := Nat → VoiceClass → Instrument → Int → Nat

end Sys2Proof.Machine
end

