-- ==== Sys2Proof/Machine/ReferenceLaws.lean ====
section
/-! DEFINITION. The reference laws of the profile (00_scope.md R12): `ENV_LAW` (43_voice_envelope.md R312 to R317), the same for every voice
class, and `FREQ_STEP` (R328, R329), computed exactly: the floor of a real product with a power 2^(cents/1200) is the greatest n whose
1200th power does not exceed the product's (log 21). -/

namespace Sys2Proof.Machine

/-! ## ENV_LAW -/

/-- The `Attack` step (R314). -/
def attackStep (x : EnvPoint) : EnvState × Nat :=
  (if min 255 (x.level + max x.a.toNat 1) = 255 then .decay else .attack, min 255 (x.level + max x.a.toNat 1))

/-- The `Decay` step (R315). -/
def decayStep (x : EnvPoint) : EnvState × Nat :=
  if x.level * x.d.toNat / 256 ≤ x.s.toNat then (.sustain, x.s.toNat) else (.decay, x.level * x.d.toNat / 256)

/-- The `Releasing` step (R317). -/
def releaseStep (x : EnvPoint) : EnvState × Nat :=
  if x.level * x.r.toNat / 256 = 0 then (.dead, 0) else (.releasing, x.level * x.r.toNat / 256)

/-- The reference `ENV_LAW` by the state the channel is in (R312, R314 to R317). -/
def referenceEnvLaw (x : EnvPoint) : EnvState × Nat :=
  match x.state with
  | .initializing => attackStep x
  | .attack => attackStep x
  | .decay => decayStep x
  | .sustain => (.sustain, x.level)
  | .releasing => releaseStep x
  | .dead => (.dead, x.level)

/-! ## FREQ_STEP -/

/-- Whether n * den is at most num * 2^(cents / 1200) over the reals: both sides raised to the power 1200. -/
def powLe (num den : Nat) (cents : Int) (n : Nat) : Bool :=
  decide ((n * den) ^ 1200 * 2 ^ (-cents).toNat ≤ num ^ 1200 * 2 ^ cents.toNat)

/-- The greatest n in `acc .. acc + 2^bits - 1` that `ok` admits, by its bits from the highest down; `ok` is downward closed. -/
def greatest (ok : Nat → Bool) : Nat → Nat → Nat
  | 0, acc => acc
  | bits + 1, acc => if ok (acc + 2 ^ bits) then greatest ok bits (acc + 2 ^ bits) else greatest ok bits acc

/-- `clamp(0, 2^32 - 1, floor(num * 2^(cents / 1200) / den))` (R328, R329). -/
def scaledStep (num den : Nat) (cents : Int) : Nat := greatest (powLe num den cents) 32 0

/-- The reference `FREQ_STEP` (R328, R329): from the sample rate for PCM, from key 69 at 440 Hz for the other classes. -/
def referenceFreqLaw (outRate : Nat) (_ : VoiceClass) (i : Instrument) (cents : Int) : Nat :=
  match i.payload with
  | .pcm g => scaledStep (g.rate * 65536) outRate cents
  | _ => max 1 (scaledStep (440 * 4294967296) outRate cents)

end Sys2Proof.Machine
end

