-- ==== Sys2Proof/Machine/Profile.lean ====
section
/-! DEFINITION. The hardware profile (00_scope.md R4, R12): one value of every implementation parameter. A block is built for one profile, which
does not change while it runs and is no state (70_reset_and_hazards.md R536): the type `State P` and every function of the machine take the
profile `P` as an argument. `State` with no argument, `exec`, `step` and `core` are the block of `Profile.reference`. -/

namespace Sys2Proof.Machine

/-- The implementation parameters of R12. DESIGN CHOICE (log 27): R12 states no ranges, and the model checks none; the profiles it stands for are
those with the ranges given at each field here, any natural number where none is given. -/
structure Profile extends DecodeProfile where
  /-- `STACK_DEPTH` (R44) -/
  stackDepth : Nat
  /-- `N_PCM` (R46) -/
  numPcm : Nat
  /-- `N_SQUARE` (R46) -/
  numSquare : Nat
  /-- `N_WAVE` (R46) -/
  numWave : Nat
  /-- `N_NOISE` (R46) -/
  numNoise : Nat
  /-- `ADPCM_STEPS` (R354), 1 to 89: how many entries of the step table there are -/
  adpcmSteps : Nat
  /-- `TEMPO_THRESH` (R272), not 0 -/
  tempoThresh : Nat
  /-- `TEMPO_RESET` (R31) -/
  tempoReset : Half
  /-- `OUT_RATE` (R328), not 0 -/
  outRate : Nat
  /-- `SAMPLES_PER_FRAME` (R470) -/
  samplesPerFrame : Nat
  /-- `LOOP_THRESHOLD` (R284); none means the fade-out never begins -/
  loopThreshold : Option Nat
  /-- `FADE_SAMPLES` (R477) -/
  fadeSamples : Nat
  /-- `FADE_EXP`, at least 1 (R476) -/
  fadeExp : Nat
  /-- `ACCOUNT_LIMIT` (R197) -/
  accountLimit : Nat
  /-- `EXEC_LIMIT` (R192) -/
  execLimit : Nat
  /-- `ENV_LAW` (R310); what a law reads and answers is log 28 -/
  envLaw : VoiceClass → EnvLaw
  /-- `FREQ_STEP` (R327), given `OUT_RATE` -/
  freqLaw : FreqLaw
  /-- `INTERP` (R385, R386) -/
  interp : Interp
  /-- `ADPCM_DIFF` (R356) -/
  adpcmDiff : AdpcmDiff
  /-- `SYNTH_AMP` (R406), 0 to 32767, so that a synthetic sample is an s16 (R471; log 27) -/
  synthAmp : Int
  /-- `SEQ_SIZE_MAX` (R100), at most 2^24, so that a cursor is a u24 (R42; log 27) -/
  seqSizeMax : Nat

/-- The reference profile (R12, R20). -/
@[reducible] def Profile.reference : Profile where
  toDecodeProfile := DecodeProfile.reference
  stackDepth := Config.stackDepth
  numPcm := Config.numPcm
  numSquare := Config.numSquare
  numWave := Config.numWave
  numNoise := Config.numNoise
  adpcmSteps := Config.adpcmSteps
  tempoThresh := Config.tempoThresh
  tempoReset := Config.tempoReset
  outRate := Config.outRate
  samplesPerFrame := Config.samplesPerFrame
  loopThreshold := Config.loopThreshold
  fadeSamples := Config.fadeSamples
  fadeExp := Config.fadeExp
  accountLimit := Config.accountLimit
  execLimit := Config.execLimit
  envLaw := fun _ => referenceEnvLaw
  freqLaw := referenceFreqLaw
  interp := Config.interp
  adpcmDiff := Config.adpcmDiff
  synthAmp := Config.synthAmp
  seqSizeMax := Config.seqSizeMax

/-- The size of the channel pool (R46): 11 in the reference profile. -/
abbrev Profile.numChannels (P : Profile) : Nat := P.numPcm + P.numSquare + P.numWave + P.numNoise

/-- A global channel index of a profile's pool (R46). -/
abbrev Profile.Chan (P : Profile) : Type := Fin P.numChannels

/-- A global channel index of the reference pool (R46). -/
abbrev ChanId : Type := Profile.reference.Chan

/-- The voice class of the channel with a global index (R46): the PCM channels first, then Square, Wave and Noise. -/
def Profile.classOf (P : Profile) (c : P.Chan) : VoiceClass :=
  if c.val < P.numPcm then .pcm
  else if c.val < P.numPcm + P.numSquare then .square
  else if c.val < P.numPcm + P.numSquare + P.numWave then .wave
  else .noise

/-- `FREQ_STEP(class, inst, cents)` of a profile (R327). -/
def Profile.freqStep (P : Profile) (c : VoiceClass) (i : Instrument) (cents : Int) : Nat := P.freqLaw P.outRate c i cents

end Sys2Proof.Machine
end

