-- ==== Sys2Proof/Machine/State.lean ====
section
/-! DEFINITION. The whole state of the block as plain data (10_state.md R30 to R54, 00_scope.md R11, 70_reset_and_hazards.md R530): its
input and output ports, the engine registers, the installed song table, the track register files and the channel pool; and two fields
of the model's own that say where inside a frame step the machine stands (log 2). The mixer's per-quantum buffers (R52), the decoder's
running-status byte (R184) and the accounting pass's counters (R191) live only inside one rule, so they are local values of that rule's
function and no field here. -/

namespace Sys2Proof.Machine

/-! ## The bank port (20_memory.md R104) -/

/-- One answer of the bank port: what `BankLookup(voice, key)` returns (R104). -/
structure BankEntry where
  voice : Nat
  key : Nat
  inst : Instrument
deriving DecidableEq, Repr

/-! ## The song table (R38, R39) and the load status (R36, R492) -/

/-- One entry of a command list: the command, its byte length, and the ticks at which the accounting executed it (R39). -/
structure Entry where
  cmd : Instr
  len : Nat
  ticks : List Nat
deriving DecidableEq, Repr

/-- A command list: entries by byte offset, sorted by offset, each offset once (R38). -/
abbrev CmdList := List (Nat × Entry)

/-- The track start table of a song (R101). -/
abbrev StartTable := Vector (Option Off24) Config.maxTracks

/-- The song table a load installs (R38). -/
structure SongTable where
  start : StartTable
  cmds : Vector CmdList Config.maxTracks
  maxTicks : Nat
  longest : TrackId
  loopStartTick : Option Nat
deriving DecidableEq, Repr

/-- What a raised load error carries (R491, R493). -/
structure LoadError where
  kind : LoadErrorKind
  track : Option TrackId
  offset : Option Nat
  opcode : Option Byte
deriving DecidableEq, Repr

/-- `loadStatus` (R36). -/
inductive LoadStatus where
  | ok
  | failed (e : LoadError)
deriving DecidableEq, Repr

/-- What `LoadSong` is handed: the song's sequence bytes and its track start table (R501). -/
structure Song where
  rom : Memory
  starts : StartTable
deriving DecidableEq, Repr

/-! ## Track register files (R40 to R45) -/

/-- `lfoTarget` (R43). -/
inductive LfoTarget where
  | pitch
  | volume
  | pan
  | off
deriving DecidableEq, Repr

/-- An entry of a track's call and loop stack (R44). -/
inductive StackEntry where
  | call (ret : Nat)
  | loop (body remaining : Nat)
deriving DecidableEq, Repr

/-- One track register file (R41 to R44). The head of `stack` is its top. A byte register that the spec reads as s8 (`pitchBend`,
`transpose`) is read with `toInt`. -/
structure Track where
  opened : Bool
  stopped : Bool
  cursor : Nat
  rest : Nat
  voice : Nat
  volume : Nat
  expression : Nat
  pan : Int
  pitchBend : Byte
  bendRange : Byte
  transpose : Byte
  priority : Byte
  atkOvr : Option Byte
  decOvr : Option Byte
  susOvr : Option Byte
  relOvr : Option Byte
  lfoDepth : Byte
  lfoSpeed : Byte
  lfoRange : Byte
  lfoTarget : LfoTarget
  lfoDelay : Half
  lfoPhase : Byte
  lfoDelayCount : Half
  stack : List StackEntry
deriving DecidableEq, Repr

/-- TrackReset (R41 to R45) of a track whose entry in the installed start table is `start`. -/
def Track.reset (start : Option Off24) : Track where
  opened := start.isSome
  stopped := start.isNone
  cursor := match start with
    | some x => x.toNat
    | none => 0
  rest := 0
  voice := 0
  volume := 127
  expression := 127
  pan := 0
  pitchBend := 0#8
  bendRange := 2#8
  transpose := 0#8
  priority := 64#8
  atkOvr := none
  decOvr := none
  susOvr := none
  relOvr := none
  lfoDepth := 0#8
  lfoSpeed := 16#8
  lfoRange := 1#8
  lfoTarget := .pitch
  lfoDelay := 0#16
  lfoPhase := 0#8
  lfoDelayCount := 0#16
  stack := []

/-! ## The channel pool (R46 to R51) -/

/-- A loop snapshot of the ADPCM decoder (R51). -/
structure Snapshot where
  pred : Int
  idx : Fin 89
  nib : Nat
deriving DecidableEq, Repr

/-- The ADPCM decoder state of a channel (R51, R351). -/
structure Codec where
  pred : Int
  idx : Fin 89
  nib : Nat
  snap : Option Snapshot
deriving DecidableEq, Repr

/-- One channel: its envelope state and owner (R47, R48), its per-note fields (R49), its render position (R50) and its codec state (R51). Each
channel carries every render field; a rule uses only those of the channel's class. -/
structure Channel where
  state : EnvState
  owner : Option TrackId
  key : Nat
  velocity : Nat
  durLeft : Int
  inst : Option Instrument
  a : Byte
  d : Byte
  s : Byte
  r : Byte
  level : Nat
  gainL : Nat
  gainR : Nat
  step : Nat
  pos : Nat
  frac : Half
  phase : Word32
  lfsr : BitVec 15
  codec : Codec
deriving DecidableEq, Repr

/-- A channel after PowerOn (R530). -/
def Channel.reset : Channel where
  state := .dead
  owner := none
  key := 0
  velocity := 0
  durLeft := 0
  inst := none
  a := 0#8
  d := 0#8
  s := 0#8
  r := 0#8
  level := 0
  gainL := 0
  gainR := 0
  step := 0
  pos := 0
  frac := 0#16
  phase := 0#32
  lfsr := 0x7FFF#15
  codec := ⟨0, 0, 0, none⟩

/-! ## Engine registers, ports and the sequencer -/

/-- `mode` (R30). -/
inductive Mode where
  | noSong
  | stopped
  | playing
  | paused
deriving DecidableEq, Repr

/-- `fade` (R35): `n` output samples of `total` are already faded. -/
inductive Fade where
  | none
  | fadeOut (n total : Nat)
  | fadeIn (n total : Nat)
  | done
deriving DecidableEq, Repr

/-- The host commands that go through the queue (R500). -/
inductive HostCmd where
  | loadSong (song : Song)
  | play
  | stop
  | pause
  | setCurrentPosition (ticks : Nat)
  | fadeIn
  | shutDown
deriving DecidableEq, Repr

/-- What the telemetry port shows of one track (R507). -/
structure TrackTelemetry where
  opened : Bool
  stopped : Bool
  cursor : Nat
  activeKeys : List Nat
  volume : Nat
  expression : Nat
  pan : Int
  pitchBend : Byte
  bendRange : Byte
  transpose : Byte
  voice : Nat
  voiceType : Option VoiceClass
deriving DecidableEq, Repr

/-- The telemetry port (R507): a record of the state at the last completed frame step (R116). -/
structure Telemetry where
  mode : Mode
  elapsed : Nat
  maxTicks : Nat
  loopCount : Nat
  tempo : Half
  tracks : Vector TrackTelemetry Config.maxTracks
deriving DecidableEq, Repr

/-- Why a tick-0 pass runs (R271): for `Play`, or for a seek to a tick from a mode (R285). -/
inductive PassJob where
  | play
  | seek (from_ : Mode) (target : Nat)
deriving DecidableEq, Repr

/-- Why scheduler ticks run: for the tempo accumulator of a frame step (R272), or for a seek to a tick from a mode (R285). -/
inductive TickJob where
  | frame
  | seek (from_ : Mode) (target : Nat)
deriving DecidableEq, Repr

/-- Where inside a frame step the machine stands (the model's own; log 2). -/
inductive Phase where
  /-- between frame steps: the next step begins one (R270) -/
  | boundary
  /-- step 1 of R270: host commands of this frame step are being performed -/
  | host
  /-- the tick-0 pass: track `cur` executes or is passed over (R271) -/
  | pass (job : PassJob)
  /-- between two scheduler ticks -/
  | ticks (job : TickJob)
  /-- the first half of `TrackTick(cur)`: rest, LFO and channel steps (R274) -/
  | tickPre (job : TickJob)
  /-- the second half of `TrackTick(cur)`: its command loop (R274, R220) -/
  | tickRun (job : TickJob)
deriving DecidableEq, Repr

/-- The state of the block built for a profile; `State` alone is that of the reference profile. Only the size of the pool depends on
the profile. -/
structure State (P : Profile := Profile.reference) where
  /-- input port `host_cmd`: commands enqueued since the last frame step began (R500) -/
  hostQueue : List HostCmd
  /-- input `mute_mask` (R37) -/
  muteMask : Half
  /-- input port `seq_rom` of the song last named by `LoadSong` (R100) -/
  seqRom : Memory
  /-- input `track_starts` of that song (R101) -/
  trackStarts : StartTable
  /-- input port `bank` (R104): what it answers, a miss where nothing is listed -/
  bank : List BankEntry
  /-- input port `sample_rom` (R105) -/
  sampleRom : Memory
  /-- `mode` (R30) -/
  mode : Mode
  /-- `tempo` (R31) -/
  tempo : Half
  /-- `tempoStack` (R32) -/
  tempoStack : Nat
  /-- `E`, the elapsed-tick counter (R33) -/
  elapsed : Nat
  /-- `loopCount` (R34) -/
  loopCount : Nat
  /-- `fade` (R35) -/
  fade : Fade
  /-- `loadStatus` (R36), shown on output port `load_status` (R492) -/
  loadStatus : LoadStatus
  /-- `seeking` (R54) -/
  seeking : Bool
  /-- the installed song table, if any (R38) -/
  song : Option SongTable
  /-- the track register files (R40) -/
  tracks : Vector Track Config.maxTracks
  /-- the channel pool by global channel index (R46) -/
  channels : Vector Channel P.numChannels
  /-- output port `pcm_out`: the last quantum, left and right (R474); no pair until the first frame step ends -/
  pcmOut : List (Int × Int)
  /-- output port `telemetry` (R507) -/
  telemetry : Telemetry
  /-- the commands of the frame step in progress that are not yet performed (R500; the model's own) -/
  taken : List HostCmd
  /-- where inside a frame step the machine stands (the model's own) -/
  phase : Phase
  /-- the executing track of R17 and R220 (the model's own) -/
  cur : TrackId
deriving DecidableEq, Repr

/-- Why a step stops with a fault. Every one of them is safe: the machine stops where the spec says no playback comes. -/
inductive Fault where
  /-- `Call` or `LoopStart` with a full stack (R243, R245): raised by their meanings; the load reports it as a load error (R198). Safe. -/
  | callStackOverflow
  /-- `Return` whose stack top is no `Call` entry (R244): raised by its meaning; the load reports it as a load error (R198). Safe. -/
  | returnUnderflow
  /-- `LoopEnd` whose stack top is no `Loop` entry (R246): raised by its meaning; the load reports it as a load error (R198). Safe. -/
  | badLoopEnd
  /-- The executing track's cursor names no command of its list, which R42 rules out: raised by the fetch. Safe. -/
  | noCommand
  /-- A live channel breaks R48, R113 or R389 (no owner, no instrument, a region outside `sample_rom`, a position past its end): raised
  before gains are recomputed or a quantum is rendered. Safe. -/
  | unsoundChannel
  /-- The structural walk ran past the bound of R187: raised by the load. Safe. -/
  | walkDiverged
deriving DecidableEq, Repr

/-- Why a step refuses. -/
inductive Refusal where
  /-- An instruction with no meaning yet: raised by an arm of `exec`. Safe. No arm of this model raises it. -/
  | notModelled (mnemonic : String)
  /-- `LoadSong` was handed a sequence longer than `SEQ_SIZE_MAX`, which R100 rules out: raised by the host command. Safe. -/
  | songTooLong
deriving DecidableEq, Repr

/-- What a step or a meaning answers. -/
abbrev Result (P : Profile := Profile.reference) : Type := Host.Outcome (State P) Fault Refusal

/-- What the telemetry port shows of a track that is `TrackReset` with no start table and holds no channel. -/
def TrackTelemetry.reset : TrackTelemetry where
  opened := false
  stopped := true
  cursor := 0
  activeKeys := []
  volume := 127
  expression := 127
  pan := 0
  pitchBend := 0#8
  bendRange := 2#8
  transpose := 0#8
  voice := 0
  voiceType := none

/-- PowerOn (R530) of the block of a profile. -/
def State.powerOn (P : Profile) : State P where
  hostQueue := []
  muteMask := 0#16
  seqRom := Memory.empty
  trackStarts := Vector.replicate Config.maxTracks none
  bank := []
  sampleRom := Memory.empty
  mode := .noSong
  tempo := P.tempoReset
  tempoStack := 0
  elapsed := 0
  loopCount := 0
  fade := .none
  loadStatus := .ok
  seeking := false
  song := none
  tracks := Vector.replicate Config.maxTracks (Track.reset none)
  channels := Vector.replicate P.numChannels Channel.reset
  pcmOut := []
  telemetry :=
    { mode := .noSong, elapsed := 0, maxTicks := 0, loopCount := 0, tempo := P.tempoReset,
      tracks := Vector.replicate Config.maxTracks TrackTelemetry.reset }
  taken := []
  phase := .boundary
  cur := 0

/-- PowerOn (R530) of the block of the reference profile: the state right after reset. -/
def State.reset : State := State.powerOn Profile.reference

end Sys2Proof.Machine
end

