-- ==== Sys2Proof/Machine/Flags.lean ====
section
/-! DEFINITION. The status flags. The block has no condition codes (R53): its status flags are `opened` and `stopped` of each track
(R41) and `ch.state` of each channel (R47), and a command's Flags clause names which of them it writes. -/

namespace Sys2Proof.Machine

/-- A channel is live when its state is not `Dead` (R47). -/
def Channel.live (ch : Channel) : Bool := decide (ch.state ≠ .dead)

/-- The channel is live and neither releasing: the states from which a release is triggered (R318). -/
def Channel.sounding (ch : Channel) : Bool := decide (ch.state ≠ .dead) && decide (ch.state ≠ .releasing)

/-- The channel is in `channels(t)`: live and owned by track t (R45). -/
def Channel.ownedBy (ch : Channel) (t : TrackId) : Bool := ch.live && decide (ch.owner = some t)

/-- The release trigger (R318): `ch.state <- Releasing`, the level kept; a releasing or dead channel is not affected. -/
def Channel.release (ch : Channel) : Channel := if ch.sounding then { ch with state := .releasing } else ch

/-- `Die(ch)` (R320). -/
def Channel.die (ch : Channel) : Channel := { ch with state := .dead, owner := none }

/-- The track executes commands now: it is opened, not stopped, and its rest counter is 0 (R220, R271, R274). -/
def Track.runnable (t : Track) : Bool := t.opened && !t.stopped && decide (t.rest = 0)

end Sys2Proof.Machine
end

