-- ==== Sys2Proof/Machine/Ops.lean ====
section
/-! DEFINITION. The named operations over the song table, the track files and the channel pool that the meanings share. The block has no
trap, no exception entry and no return from one (60_exceptions.md R490, R512): there is no such operation to model. A command's error
(R243, R244, R246) is a named fault. -/

namespace Sys2Proof.Machine

variable {P : Profile}

/-! ## Tracks and channels -/

/-- The executing track's register file. -/
def State.track (s : State P) : Track := s.tracks[s.cur]

/-- The state with the register file of track `t` replaced. -/
def State.setTrack (s : State P) (t : TrackId) (x : Track) : State P := { s with tracks := s.tracks.set t x }

/-- The state with every channel passed through `f`. -/
def State.mapChannels (s : State P) (f : Channel → Channel) : State P := { s with channels := vecMap f s.channels }

/-- The state with channel `c` replaced. -/
def State.setChannel (s : State P) (c : P.Chan) (ch : Channel) : State P := { s with channels := s.channels.set c ch }

/-- Whether any channel is live. -/
def State.anyLive (s : State P) : Bool := s.channels.toList.any Channel.live

/-! ## The song table -/

/-- The command list's entry at an offset (R38, R189). -/
def lookupCmd : CmdList → Nat → Option Entry
  | [], _ => none
  | (p, e) :: es, x => if p = x then some e else lookupCmd es x

/-- `cmds[t][t.cursor]` (R220): none when no table is installed or the offset is not in the list. -/
def State.entryAt (s : State P) (t : TrackId) (p : Nat) : Option Entry :=
  match s.song with
  | none => none
  | some g => lookupCmd g.cmds[t] p

/-- The entry the executing track's cursor names (R220). -/
def State.fetch (s : State P) : Option Entry := s.entryAt s.cur s.track.cursor

/-- `MaxTicks` of the installed table, 0 with none (R530). -/
def State.maxTicks (s : State P) : Nat :=
  match s.song with
  | none => 0
  | some g => g.maxTicks

/-- `Longest` of the installed table, 0 with none (R530). -/
def State.longest (s : State P) : TrackId :=
  match s.song with
  | none => 0
  | some g => g.longest

/-- `LoopStartTick` of the installed table, none with none (R530). -/
def State.loopStartTick (s : State P) : Option Nat :=
  match s.song with
  | none => none
  | some g => g.loopStartTick

/-- The installed start table, all absent with no table (R41, R530). -/
def State.startTable (s : State P) : StartTable :=
  match s.song with
  | none => Vector.replicate Config.maxTracks none
  | some g => g.start

/-! ## Retiring a command -/

/-- Run `k` on the byte length of the command at the executing track's cursor (R39, R220). -/
def withLen (s : State P) (k : Nat → Result P) : Result P :=
  match s.fetch with
  | none => .fault .noCommand
  | some e => k e.len

/-- Write the executing track's registers by `f` and end with `t.cursor <- cur + len` (R220). -/
def retire (s : State P) (f : Track → Track) : Result P :=
  withLen s fun len => .next (s.setTrack s.cur { f s.track with cursor := s.track.cursor + len })

/-! ## The bank port (R104) -/

/-- The ranges of a sample region descriptor (R106). -/
def Region.inRange (g : Region) : Bool :=
  decide (g.addr < 4294967296) && decide (1 ≤ g.length) && decide (g.length ≤ 2147483648) && decide (1 ≤ g.rate) &&
    decide (g.rate ≤ 1048576)

/-- The ranges of an instrument record (R104, R106). -/
def Instrument.inRange (i : Instrument) : Bool :=
  decide (i.baseNote < 128) &&
    (match i.fixedKey with
      | none => true
      | some k => decide (k < 128)) &&
    (match i.payload with
      | .pcm g => g.inRange
      | _ => true)

/-- The first record the port lists for a voice and a key. -/
def findInst : List BankEntry → Nat → Nat → Option Instrument
  | [], _, _ => none
  | b :: bs, voice, key => if b.voice = voice ∧ b.key = key then some b.inst else findInst bs voice key

/-- `BankLookup(voice, key)` (R104): a miss is none; a voice or key out of range, or a record out of range, is a miss. -/
def bankLookup (bank : List BankEntry) (voice key : Nat) : Option Instrument :=
  if voice < 268435456 ∧ key < 128 then
    match findInst bank voice key with
    | none => none
    | some i => if i.inRange then some i else none
  else none

/-! ## Sample regions (R106, R113, R360) -/

/-- `bytes(format, length)` (R106). -/
def Region.bytes (g : Region) : Nat :=
  match g.format with
  | .pcm8 => g.length
  | .pcm16 => 2 * g.length
  | .adpcm => 4 + (g.length + 1) / 2

/-- How many bytes u32 addresses reach (R105). -/
def sampleSpace : Nat := 4294967296

/-- `SAMPLE_LEN` (R105): the length of the sample space, at most 2^32. -/
def sampleLen (rom : Memory) : Nat := min rom.len sampleSpace

/-- The region lies inside `sample_rom` (R105, R113). -/
def Region.fits (g : Region) (rom : Memory) : Bool := decide (g.addr + g.bytes ≤ sampleLen rom)

/-- `loopOK` (R360): the region loops and its loop is well formed. -/
def Region.loopOk (g : Region) : Bool := g.loop && decide (g.loopStart < g.length)

/-- A PCM instrument's region lies inside `sample_rom`; other classes have none (R113). -/
def Instrument.fits (i : Instrument) (rom : Memory) : Bool :=
  match i.payload with
  | .pcm g => g.fits rom
  | _ => true

end Sys2Proof.Machine
end

