-- ==== Sys2Proof/Machine/ControlCommands.lean ====
section
/-! DEFINITION. Control transfer, track opening and finishing (41_track_commands.md R242 to R247, R249). The errors of R243, R244 and R246 are
named faults here; the load meets them first and reports them as load errors (40_sequence_decoder.md R198). -/

namespace Sys2Proof.Machine

variable {P : Profile}

/-- R242: `Jump(target)`; the stack is untouched. -/
def execJump (target : Off24) (s : State P) : Result P :=
  .next (s.setTrack s.cur { s.track with cursor := target.toNat })

/-- R243: `Call(target)` pushes the offset after itself. -/
def execCall (target : Off24) (s : State P) : Result P :=
  if P.stackDepth ≤ s.track.stack.length then .fault .callStackOverflow
  else
    withLen s fun len =>
      .next
        (s.setTrack s.cur
          { s.track with stack := .call (s.track.cursor + len) :: s.track.stack, cursor := target.toNat })

/-- R244: `Return` pops a `Call` entry; anything else on top is `ReturnUnderflow`. -/
def execRet (s : State P) : Result P :=
  match s.track.stack with
  | .call r :: rest => .next (s.setTrack s.cur { s.track with stack := rest, cursor := r })
  | _ => .fault .returnUnderflow

/-- R245: `LoopStart(count)` pushes the body offset and the count; count 0 is endless. -/
def execLoop (count : Byte) (s : State P) : Result P :=
  if P.stackDepth ≤ s.track.stack.length then .fault .callStackOverflow
  else
    withLen s fun len =>
      .next
        (s.setTrack s.cur
          { s.track with
            stack := .loop (s.track.cursor + len) count.toNat :: s.track.stack
            cursor := s.track.cursor + len })

/-- R246: `LoopEnd`; remaining 0 repeats for ever, 1 ends the loop, more counts down. -/
def execLoopend (s : State P) : Result P :=
  match s.track.stack with
  | .loop body 0 :: _ => .next (s.setTrack s.cur { s.track with cursor := body })
  | .loop _ 1 :: rest => retire s fun t => { t with stack := rest }
  | .loop body (r + 2) :: rest =>
    .next (s.setTrack s.cur { s.track with stack := .loop body (r + 1) :: rest, cursor := body })
  | _ => .fault .badLoopEnd

/-- The track `TrackOpen` opens (R247): one that has never been opened starts at the target with every other register at its TrackReset
value (log 26). -/
def Track.openAt (t : Track) (target : Off24) : Track := if t.opened then t else Track.reset (some target)

/-- R247: `TrackOpen(track, target)`; the opener's own cursor is written last. -/
def execTrackOpen (track : TrackId) (target : Off24) (s : State P) : Result P :=
  withLen s fun len =>
    let s' := s.setTrack track (s.tracks[track].openAt target)
    .next (s'.setTrack s.cur { s'.track with cursor := s.track.cursor + len })

/-- R249: `Finish` stops the track and releases its channels; the cursor stays. -/
def execFine (s : State P) : Result P :=
  .next
    ((s.setTrack s.cur { s.track with stopped := true }).mapChannels fun ch =>
      if ch.owner = some s.cur then ch.release else ch)

end Sys2Proof.Machine
end

