-- ==== Sys2Proof/Machine/Adpcm.lean ====
section
/-! DEFINITION. The ADPCM sample codec of 44_voice_adpcm.md: tables, decode step, header, loop snapshot and restore. -/

namespace Sys2Proof.Machine

/-- The step table's entries 0 to 88 (R354). -/
def stepList : List Nat :=
  [7, 8, 9, 10, 11, 12, 13, 14, 16, 17] ++ [19, 21, 23, 25, 28, 31, 34, 37, 41, 45] ++
    [50, 55, 60, 66, 73, 80, 88, 97, 107, 118] ++ [130, 143, 157, 173, 190, 209, 230, 253, 279, 307] ++
    [337, 371, 408, 449, 494, 544, 598, 658, 724, 796] ++ [876, 963, 1060, 1166, 1282, 1411, 1552, 1707, 1878, 2066] ++
    [2272, 2499, 2749, 3024, 3327, 3660, 4026, 4428, 4871, 5358] ++
    [5894, 6484, 7132, 7845, 8630, 9493, 10442, 11487, 12635, 13899] ++
    [15289, 16818, 18500, 20350, 22385, 24623, 27086, 29794, 32767]

/-- `STEP[idx]` (R354). -/
def stepOf (idx : Fin 89) : Nat := stepList[idx.val]'(by have := idx.isLt; simp [stepList])

/-- `INDEX[m]` for a magnitude m = 0..7 (R355). -/
def indexDelta (m : Nat) : Int := if m < 4 then -1 else 2 * (m : Int) - 6

/-- `clamp(0, ADPCM_STEPS - 1, x)` as a step index (R353); the reference table has 89 steps. -/
def clampIdx (steps : Nat) (x : Int) : Fin 89 := Fin.ofNat 89 (clamp 0 ((min steps 89 - 1 : Nat) : Int) x).toNat

/-- `ADPCM_DIFF(s, m)` (R356): `Shift` truncates each term separately, `Exact` once. -/
def adpcmDifference (form : AdpcmDiff) (s m : Nat) : Nat :=
  match form with
  | .shift =>
    s / 8 + (if m / 4 % 2 = 1 then s else 0) + (if m / 2 % 2 = 1 then s / 2 else 0) + (if m % 2 = 1 then s / 4 else 0)
  | .exact => (2 * m + 1) * s / 8

/-- `Decode(b)` (R353) of a nibble b = 0..15. -/
def Codec.decode (P : Profile) (q : Codec) (b : Nat) : Codec :=
  { q with
    pred :=
      if b / 8 % 2 = 1 then clampS16 (q.pred - (adpcmDifference P.adpcmDiff (stepOf q.idx) (b % 8) : Nat))
      else clampS16 (q.pred + (adpcmDifference P.adpcmDiff (stepOf q.idx) (b % 8) : Nat))
    idx := clampIdx P.adpcmSteps ((q.idx.val : Int) + indexDelta (b % 8))
    nib := q.nib + 1 }

/-- `Snapshot(state)` (R361). -/
def Codec.snapshot (q : Codec) : Snapshot := ⟨q.pred, q.idx, q.nib⟩

/-- `Restore(s)` (R359, R361): the snapshot itself stays (R357). -/
def Codec.restore (q : Codec) (p : Snapshot) : Codec := { q with pred := p.pred, idx := p.idx, nib := p.nib }

/-- Nibble k of an ADPCM region: the low nibble of its byte first (R350). -/
def adpcmNibble (rom : Memory) (g : Region) (k : Nat) : Nat :=
  if k % 2 = 0 then rom.byteNat (g.addr + 4 + k / 2) % 16 else rom.byteNat (g.addr + 4 + k / 2) / 16

/-- Header initialisation (R352). -/
def Codec.init (P : Profile) (rom : Memory) (g : Region) : Codec :=
  ⟨sext16 (rom.halfNat g.addr), clampIdx P.adpcmSteps (rom.byteNat (g.addr + 2)), 0, none⟩

/-- Take the loop snapshot if the next nibble is the loop point's and none is held (R357). -/
def Codec.trySnapshot (g : Region) (q : Codec) : Codec :=
  if g.loopOk = true ∧ q.snap = none ∧ q.nib = g.loopStart then { q with snap := some q.snapshot } else q

/-- Decode the next nibble of the region, taking the snapshot first when it is due (R358's loop body). -/
def Codec.advance (P : Profile) (rom : Memory) (g : Region) (q : Codec) : Codec :=
  (q.trySnapshot g).decode P (adpcmNibble rom g q.nib)

/-- `n` nibbles decoded in order. -/
def Codec.advanceBy (P : Profile) (rom : Memory) (g : Region) : Nat → Codec → Codec
  | 0, q => q
  | n + 1, q => Codec.advanceBy P rom g n (q.advance P rom g)

/-- `AdpcmSample(k)` (R358): the decoder after it; the sample is its `pred`. -/
def Codec.seek (P : Profile) (rom : Memory) (g : Region) (k : Nat) (q : Codec) : Codec := Codec.advanceBy P rom g (k + 1 - q.nib) q

/-- The codec's part of `Wrap(ch)` (R387, R359): with no snapshot yet, decode forward to the loop point and take it there; then restore. -/
def Codec.wrap (P : Profile) (rom : Memory) (g : Region) (q : Codec) : Codec :=
  match q.snap with
  | some p => q.restore p
  | none => (Codec.advanceBy P rom g (g.loopStart - q.nib) q).trySnapshot g

end Sys2Proof.Machine
end

