-- ==== Sys2Proof/Machine/Envelope.lean ====
section
/-! DEFINITION. The envelope of a channel (43_voice_envelope.md R310, R311, R313, R319, R320): the duration countdown and one step of the law that
`ENV_LAW` gives the channel's class, once per scheduler tick. -/

namespace Sys2Proof.Machine

/-- What an envelope law reads of the channel (DESIGN CHOICE, log 28). -/
def Channel.envPoint (ch : Channel) : EnvPoint := ⟨ch.state, ch.level, ch.a, ch.d, ch.s, ch.r⟩

/-- One step of an envelope law (R310); a channel that it sends to `Dead` dies (R320). That a law writes the state and the level and nothing
else, and that a dead channel takes no step by any law, is log 28. -/
def Channel.envStep (law : EnvLaw) (ch : Channel) : Channel :=
  if ch.state = .dead then ch
  else if (law ch.envPoint).1 = .dead then { ch with level := (law ch.envPoint).2 }.die
  else { ch with state := (law ch.envPoint).1, level := (law ch.envPoint).2 }

/-- The duration countdown (R313). -/
def Channel.countdown (ch : Channel) : Channel :=
  if 0 < ch.durLeft ∧ ch.sounding = true then
    { ch with durLeft := ch.durLeft - 1, state := if ch.durLeft - 1 = 0 then .releasing else ch.state }
  else ch

/-- `ChannelTick(ch)` (R319): the countdown, then one envelope step by the state after it. That the countdown and this order are the same
whatever `ENV_LAW` is, is log 28. -/
def Channel.tick (law : EnvLaw) (ch : Channel) : Channel := ch.countdown.envStep law

/-- The effective envelope constant: the track's override if set, else the instrument's (R311). -/
def effective (ovr : Option Byte) (inst : Byte) : Byte :=
  match ovr with
  | some x => x
  | none => inst

end Sys2Proof.Machine
end

