-- ==== Sys2Proof/Machine/Operands.lean ====
section
/-! DEFINITION. What each command makes of its operands before it stores them (41_track_commands.md R221 to R250): every operand is
computed on unbounded integers and clamped as its rule says, so every command is total. -/

namespace Sys2Proof.Machine

/-- The key a note or an end-of-tie names: `clamp(0, 127, key + transpose)` (R221, R223). -/
def transposedKey (key : Nat) (transpose : Byte) : Nat := (clamp 0 127 ((key : Int) + transpose.toInt)).toNat

/-- The velocity of a note: `min(velocity, 127)` (R221). -/
def noteVelocity (velocity : Byte) : Nat := min velocity.toNat 127

/-- The duration of a note that is no tie: `max(duration, 1)` (R221). -/
def noteDuration (duration : Nat) : Int := max (duration : Int) 1

/-- The duration of a tie (R221). -/
def tieDuration : Int := -1

/-- A volume or expression operand: `min(x, 127)` (R225, R226). -/
def sevenBit (x : Byte) : Nat := min x.toNat 127

/-- A pan operand: `clamp(-64, 63, x - 64)` (R227). -/
def panOf (x : Byte) : Int := clamp (-64) 63 ((x.toNat : Int) - 64)

/-- An LFO target operand (R240). -/
def lfoTargetOf (x : Byte) : LfoTarget :=
  if x.toNat = 0 then .pitch else if x.toNat = 1 then .volume else if x.toNat = 2 then .pan else .off

end Sys2Proof.Machine
end

