-- ==== Sys2Proof/Machine/Pitch.lean ====
section
/-! DEFINITION. Pitch, LFO and stereo gain (43_voice_envelope.md R325 to R336); the phase increment is the profile's `FREQ_STEP` (R327). -/

namespace Sys2Proof.Machine

variable {P : Profile}

/-! ## LFO (R330 to R333) -/

/-- `LfoStep(t)` (R330). -/
def Track.lfoStep (t : Track) : Track :=
  if 0 < t.lfoDelayCount.toNat then { t with lfoDelayCount := t.lfoDelayCount - 1#16 }
  else { t with lfoPhase := t.lfoPhase + t.lfoSpeed }

/-- The triangle table (R331). -/
def tri (p : Byte) : Int :=
  if p.toNat < 64 then p.toNat else if p.toNat < 192 then 128 - (p.toNat : Int) else (p.toNat : Int) - 256

/-- `lfoValue(t)` (R332). -/
def lfoValue (t : Track) : Int :=
  if 0 < t.lfoDelayCount.toNat ∨ t.lfoTarget = .off then 0
  else asr (tri t.lfoPhase * (t.lfoDepth.toNat : Int) * (t.lfoRange.toNat : Int)) 6

/-- `lfoPitch(t)` in cents (R333). -/
def lfoPitch (t : Track) : Int := if t.lfoTarget = .pitch then lfoValue t else 0

/-- `lfoVol(t)` (R333). -/
def lfoVol (t : Track) : Int := if t.lfoTarget = .volume then asr (lfoValue t) 2 else 0

/-- `lfoPan(t)` (R333). -/
def lfoPan (t : Track) : Int := if t.lfoTarget = .pan then asr (lfoValue t) 2 else 0

/-! ## Pitch (R325, R326) -/

/-- `bendCents(t)` (R326). -/
def bendCents (t : Track) : Int := quot (t.pitchBend.toInt * (t.bendRange.toNat : Int) * 100) 128

/-- `base` of R325: the instrument's base note for PCM, key 69 for the other classes. -/
def Instrument.pitchBase (i : Instrument) : Nat :=
  match i.payload with
  | .pcm _ => i.baseNote
  | _ => 69

/-- `playKey` of R325: the fixed key if the record has one, else the note's. -/
def Instrument.playKey (i : Instrument) (key : Nat) : Nat :=
  match i.fixedKey with
  | some k => k
  | none => key

/-- `cents(ch)` (R325) of a note of `key` on instrument `i` of track `t`. -/
def centsOf (t : Track) (i : Instrument) (key : Nat) : Int :=
  ((i.playKey key : Int) - (i.pitchBase : Int)) * 100 + bendCents t + lfoPitch t

/-! ## Gain (R335, R336) -/

/-- `amp'` of R335: velocity, volume and expression, then the level, then the volume LFO; an amplitude of 0 stays 0. -/
def amplitude (t : Track) (velocity level : Nat) : Int :=
  if velocity * t.volume * t.expression / 16129 * level / 255 = 0 then 0
  else clamp 0 127 (((velocity * t.volume * t.expression / 16129 * level / 255 : Nat) : Int) + lfoVol t)

/-- `p` of R335. -/
def panOfTrack (t : Track) : Int := clamp (-64) 63 (t.pan + lfoPan t)

/-- `RecomputeGain(ch)` (R335) for a channel of track `t` with instrument `i`. -/
def recomputeGain (P : Profile) (t : Track) (i : Instrument) (ch : Channel) : Channel :=
  { ch with
    gainL := (asr (amplitude t ch.velocity ch.level * (64 - panOfTrack t)) 7).toNat
    gainR := (asr (amplitude t ch.velocity ch.level * (64 + panOfTrack t)) 7).toNat
    step := P.freqStep i.cls i (centsOf t i ch.key) }

/-- A live channel has an owner and an instrument (R48, R452). -/
def Channel.bound (ch : Channel) : Bool := !ch.live || (ch.owner.isSome && ch.inst.isSome)

/-- `RecomputeGain` of one channel of the pool: only a live channel is recomputed (R336). -/
def State.regainChannel (s : State P) (ch : Channel) : Channel :=
  if ch.live then
    match ch.owner, ch.inst with
    | some t, some i => recomputeGain P s.tracks[t] i ch
    | _, _ => ch
  else ch

/-- `RecomputeGain(ch)` for every live channel, then `k` (R271, R273, R336); a live channel with no owner or no instrument faults. -/
def withGains (s : State P) (k : State P → Result P) : Result P :=
  if s.channels.toList.all Channel.bound then k (s.mapChannels s.regainChannel) else .fault .unsoundChannel

end Sys2Proof.Machine
end

