-- ==== Sys2Proof/Machine/Allocator.lean ====
section
/-! DEFINITION. The priority voice allocator and ChannelInit (47_mixer_allocator.md R440 to R458). -/

namespace Sys2Proof.Machine

variable {P : Profile}

/-- The pool of a voice class (R440): its channels in increasing index. -/
def poolOf (P : Profile) (c : VoiceClass) : List P.Chan := (List.finRange P.numChannels).filter fun i => decide (P.classOf i = c)

/-- The lowest-indexed channel of pool c in a given envelope state (R442, R443). -/
def firstInState (s : State P) (c : VoiceClass) (e : EnvState) : Option P.Chan :=
  (poolOf P c).find? fun i => decide (s.channels[i].state = e)

/-- The `priority` register of a track (R43, R441). -/
def State.priorityOf (s : State P) (t : TrackId) : Nat := s.tracks[t].priority.toNat

/-- Whether an owner precedes the best one so far in the candidate order (R458): the lesser priority, then the higher track index. -/
def ownerPrecedes (s : State P) (new best : TrackId) : Bool :=
  decide (s.priorityOf new < s.priorityOf best) ||
    (decide (s.priorityOf new = s.priorityOf best) && decide (best < new))

/-- The steal candidate among a list of channels in increasing index, with its owner (R444, R458): an equal owner keeps the lower index. -/
def candidateOf (s : State P) : List P.Chan → Option (P.Chan × TrackId) → Option (P.Chan × TrackId)
  | [], best => best
  | i :: is, best =>
    match s.channels[i].owner, best with
    | none, _ => candidateOf s is best
    | some o, none => candidateOf s is (some (i, o))
    | some o, some (j, p) => candidateOf s is (if ownerPrecedes s o p then some (i, o) else some (j, p))

/-- Steps 3 and 4 (R444, R445): a lower-priority owner loses its channel; so does an equal one whose track index is not lower. -/
def stealFrom (s : State P) (t : TrackId) (best : Option (P.Chan × TrackId)) : Option P.Chan :=
  match best with
  | none => none
  | some (v, o) =>
    if s.priorityOf o < s.priorityOf t then some v
    else if s.priorityOf o = s.priorityOf t ∧ t ≤ o then some v
    else none

/-- `Allocate(c, t)` (R441): idle, releasing, lower priority, equal priority, in this order; none is a drop (R446). -/
def allocate (s : State P) (c : VoiceClass) (t : TrackId) : Option P.Chan :=
  match firstInState s c .dead with
  | some i => some i
  | none =>
    match firstInState s c .releasing with
    | some i => some i
    | none => stealFrom s t (candidateOf s (poolOf P c) none)

/-- The codec after ChannelInit: the header's for an ADPCM instrument, else left as it is, where no rule reads it (R452, R352, R532). -/
def initCodec (P : Profile) (rom : Memory) (i : Instrument) (q : Codec) : Codec :=
  match i.payload with
  | .pcm g => if g.format = .adpcm then Codec.init P rom g else q
  | _ => q

/-- `ChannelInit(ch, t, k, v, d, inst)` (R452) on channel `ch` for track `o` with register file `t`. -/
def channelInit (P : Profile) (rom : Memory) (o : TrackId) (t : Track) (key velocity : Nat) (dur : Int) (i : Instrument) (ch : Channel) : Channel :=
  recomputeGain P t i
    { state := .initializing
      owner := some o
      key := key
      velocity := velocity
      durLeft := dur
      inst := some i
      a := effective t.atkOvr i.a
      d := effective t.decOvr i.d
      s := effective t.susOvr i.s
      r := effective t.relOvr i.r
      level := 0
      gainL := ch.gainL
      gainR := ch.gainR
      step := ch.step
      pos := 0
      frac := 0#16
      phase := 0#32
      lfsr := 0x7FFF#15
      codec := initCodec P rom i ch.codec }

/-- The channel part of a note-on of the executing track (R221): look up, check the region, allocate, initialise; else drop (R494 to R496). -/
def startVoice (s : State P) (key velocity : Nat) (dur : Int) : State P :=
  match bankLookup s.bank s.track.voice key with
  | none => s
  | some i =>
    if i.fits s.sampleRom then
      match allocate s i.cls s.cur with
      | none => s
      | some c => s.setChannel c (channelInit P s.sampleRom s.cur s.track key velocity dur i s.channels[c])
    else s

/-- The LFO restart of a note-on (R221, R330). -/
def Track.restartLfo (t : Track) : Track := { t with lfoPhase := 0#8, lfoDelayCount := t.lfoDelay }

/-- `Note(key, velocity, duration)` (R221) on the executing track; `dur` is -1 for a tie. -/
def noteOn (key : Nat) (velocity : Byte) (dur : Int) (s : State P) : Result P :=
  withLen s fun len =>
    .next
      (startVoice (s.setTrack s.cur { s.track.restartLfo with cursor := s.track.cursor + len })
        (transposedKey key s.track.transpose) (noteVelocity velocity) dur)

end Sys2Proof.Machine
end

