-- ==== Sys2Proof/Machine/NoteCommands.lean ====
section
/-! DEFINITION. Notes, rests and end of tie (41_track_commands.md R221 to R223). -/

namespace Sys2Proof.Machine

variable {P : Profile}

/-- R221 for `note`: a duration of 0 plays as 1. -/
def execNote (key : Nat) (velocity : Byte) (duration : Nat) (s : State P) : Result P :=
  noteOn key velocity (noteDuration duration) s

/-- R221 for `notec`: the same note by a control byte. -/
def execNotec (key : Nat) (velocity : Byte) (duration : Nat) (s : State P) : Result P :=
  noteOn key velocity (noteDuration duration) s

/-- R221 for `tie`: duration -1, released only by an end of tie, a finish, a steal or a stop. -/
def execTie (key : Nat) (velocity : Byte) (s : State P) : Result P := noteOn key velocity tieDuration s

/-- R222: `Rest(n)`; n = 0 lets the command loop go on at once. -/
def execRest (n : Nat) (s : State P) : Result P := retire s fun t => { t with rest := n }

/-- The tie test of R223: owned by track `t`, playing key `k`, a tie, and not yet releasing. -/
def Channel.isTieOf (ch : Channel) (t : TrackId) (k : Nat) : Bool :=
  decide (ch.owner = some t) && decide (ch.key = k) && decide (ch.durLeft = -1) && ch.sounding

/-- R223: `EndOfTie(key)` releases every matching tie of the track; none is no effect. -/
def execEot (key : Nat) (s : State P) : Result P :=
  retire
    (s.mapChannels fun ch => if ch.isTieOf s.cur (transposedKey key s.track.transpose) then ch.release else ch) id

end Sys2Proof.Machine
end

