-- ==== Sys2Proof/Machine/ParamCommands.lean ====
section
/-! DEFINITION. The track parameter commands and `SetTempo` (41_track_commands.md R224 to R241): each writes one register and advances the
cursor. -/

namespace Sys2Proof.Machine

variable {P : Profile}

/-- R224: `SetVoice(v)`; live channels keep their instrument. -/
def execVoice (v : Nat) (s : State P) : Result P := retire s fun t => { t with voice := v }

/-- R225: `SetVolume(x)`, clamped to 127. -/
def execVol (x : Byte) (s : State P) : Result P := retire s fun t => { t with volume := sevenBit x }

/-- R226: `SetExpression(x)`, clamped to 127. -/
def execExpr (x : Byte) (s : State P) : Result P := retire s fun t => { t with expression := sevenBit x }

/-- R227: `SetPan(x)`, 64 being centre. -/
def execPan (x : Byte) (s : State P) : Result P := retire s fun t => { t with pan := panOf x }

/-- R228: `SetPitchBend(s)`; the byte is the s8 operand. -/
def execBend (x : Byte) (s : State P) : Result P := retire s fun t => { t with pitchBend := x }

/-- R229: `SetBendRange(x)` in semitones. -/
def execBendrange (x : Byte) (s : State P) : Result P := retire s fun t => { t with bendRange := x }

/-- R230: `SetTranspose(s)`; the byte is the s8 operand. -/
def execTranspose (x : Byte) (s : State P) : Result P := retire s fun t => { t with transpose := x }

/-- R231: `SetPriority(x)`. -/
def execPrio (x : Byte) (s : State P) : Result P := retire s fun t => { t with priority := x }

/-- R232: `SetAttack(x)`, for notes allocated later. -/
def execAttack (x : Byte) (s : State P) : Result P := retire s fun t => { t with atkOvr := some x }

/-- R233: `SetDecay(x)`, for notes allocated later. -/
def execDecay (x : Byte) (s : State P) : Result P := retire s fun t => { t with decOvr := some x }

/-- R234: `SetSustain(x)`, for notes allocated later. -/
def execSustain (x : Byte) (s : State P) : Result P := retire s fun t => { t with susOvr := some x }

/-- R235: `SetRelease(x)`, for notes allocated later. -/
def execRelease (x : Byte) (s : State P) : Result P := retire s fun t => { t with relOvr := some x }

/-- R236: `SetLfoDepth(x)`. -/
def execLfodepth (x : Byte) (s : State P) : Result P := retire s fun t => { t with lfoDepth := x }

/-- R237: `SetLfoSpeed(x)`. -/
def execLfospeed (x : Byte) (s : State P) : Result P := retire s fun t => { t with lfoSpeed := x }

/-- R238: `SetLfoRange(x)`. -/
def execLforange (x : Byte) (s : State P) : Result P := retire s fun t => { t with lfoRange := x }

/-- R239: `SetLfoDelay(x)` in ticks; copied to the count at the next note-on. -/
def execLfodelay (x : Half) (s : State P) : Result P := retire s fun t => { t with lfoDelay := x }

/-- R240: `SetLfoTarget(x)`; 3 to 255 turn the LFO off. -/
def execLfotarget (x : Byte) (s : State P) : Result P := retire s fun t => { t with lfoTarget := lfoTargetOf x }

/-- R241: `SetTempo(x)` writes the engine register `tempo`; ticks already due in this frame step still fire (R272). -/
def execTempo (x : Half) (s : State P) : Result P := retire { s with tempo := x } id

end Sys2Proof.Machine
end

