-- ==== Sys2Proof/Machine/VarCommands.lean ====
section
/-! DEFINITION. The raw variable operations (41_track_commands.md R248, R141): no variable is stored and no command branches on one, so each
of them only advances the cursor. With STRICT_VAROPS the load refuses them (R248), which is the decoder's part. -/

namespace Sys2Proof.Machine

variable {P : Profile}

/-- R248: `VarOp(op, var, imm)` is `t.cursor <- cur + len` and nothing else. -/
def varOp (s : State P) : Result P := retire s id

/-- R248 with op 0 of R141. -/
def execVarSet (_var : Byte) (_imm : Half) (s : State P) : Result P := varOp s

/-- R248 with op 1 of R141. -/
def execVarAdd (_var : Byte) (_imm : Half) (s : State P) : Result P := varOp s

/-- R248 with op 2 of R141. -/
def execVarSub (_var : Byte) (_imm : Half) (s : State P) : Result P := varOp s

/-- R248 with op 3 of R141. -/
def execVarMul (_var : Byte) (_imm : Half) (s : State P) : Result P := varOp s

/-- R248 with op 4 of R141. -/
def execVarDiv (_var : Byte) (_imm : Half) (s : State P) : Result P := varOp s

/-- R248 with op 5 of R141. -/
def execVarShift (_var : Byte) (_imm : Half) (s : State P) : Result P := varOp s

/-- R248 with op 6 of R141. -/
def execVarRand (_var : Byte) (_imm : Half) (s : State P) : Result P := varOp s

/-- R248 with op 7 of R141. -/
def execVarReserved (_var : Byte) (_imm : Half) (s : State P) : Result P := varOp s

/-- R248 with op 8 of R141. -/
def execVarEq (_var : Byte) (_imm : Half) (s : State P) : Result P := varOp s

/-- R248 with op 9 of R141. -/
def execVarGe (_var : Byte) (_imm : Half) (s : State P) : Result P := varOp s

/-- R248 with op 10 of R141. -/
def execVarGt (_var : Byte) (_imm : Half) (s : State P) : Result P := varOp s

/-- R248 with op 11 of R141. -/
def execVarLe (_var : Byte) (_imm : Half) (s : State P) : Result P := varOp s

/-- R248 with op 12 of R141. -/
def execVarLt (_var : Byte) (_imm : Half) (s : State P) : Result P := varOp s

/-- R248 with op 13 of R141. -/
def execVarNe (_var : Byte) (_imm : Half) (s : State P) : Result P := varOp s

end Sys2Proof.Machine
end

