-- ==== Sys2Proof/Machine/Dispatch.lean ====
section
/-! DEFINITION. The meaning of every command of spec/opcode_table.json, one arm each, on the executing track of the state. -/

namespace Sys2Proof.Machine

def exec (i : Instr) (s : State) : Host.Outcome State Fault Refusal :=
  match i with
  | .note key vel dur => Sys2Proof.Machine.execNote key vel dur s
  | .rest n => Sys2Proof.Machine.execRest n s
  | .voice v => Sys2Proof.Machine.execVoice v s
  | .trackOpen tr x => Sys2Proof.Machine.execTrackOpen tr x s
  | .jump x => Sys2Proof.Machine.execJump x s
  | .call x => Sys2Proof.Machine.execCall x s
  | .varSet v imm => Sys2Proof.Machine.execVarSet v imm s
  | .varAdd v imm => Sys2Proof.Machine.execVarAdd v imm s
  | .varSub v imm => Sys2Proof.Machine.execVarSub v imm s
  | .varMul v imm => Sys2Proof.Machine.execVarMul v imm s
  | .varDiv v imm => Sys2Proof.Machine.execVarDiv v imm s
  | .varShift v imm => Sys2Proof.Machine.execVarShift v imm s
  | .varRand v imm => Sys2Proof.Machine.execVarRand v imm s
  | .varReserved v imm => Sys2Proof.Machine.execVarReserved v imm s
  | .varEq v imm => Sys2Proof.Machine.execVarEq v imm s
  | .varGe v imm => Sys2Proof.Machine.execVarGe v imm s
  | .varGt v imm => Sys2Proof.Machine.execVarGt v imm s
  | .varLe v imm => Sys2Proof.Machine.execVarLe v imm s
  | .varLt v imm => Sys2Proof.Machine.execVarLt v imm s
  | .varNe v imm => Sys2Proof.Machine.execVarNe v imm s
  | .pan x => Sys2Proof.Machine.execPan x s
  | .vol x => Sys2Proof.Machine.execVol x s
  | .transpose x => Sys2Proof.Machine.execTranspose x s
  | .bend x => Sys2Proof.Machine.execBend x s
  | .bendrange x => Sys2Proof.Machine.execBendrange x s
  | .prio x => Sys2Proof.Machine.execPrio x s
  | .lfodepth x => Sys2Proof.Machine.execLfodepth x s
  | .lfospeed x => Sys2Proof.Machine.execLfospeed x s
  | .lfotarget x => Sys2Proof.Machine.execLfotarget x s
  | .lforange x => Sys2Proof.Machine.execLforange x s
  | .attack x => Sys2Proof.Machine.execAttack x s
  | .decay x => Sys2Proof.Machine.execDecay x s
  | .sustain x => Sys2Proof.Machine.execSustain x s
  | .release x => Sys2Proof.Machine.execRelease x s
  | .loop count => Sys2Proof.Machine.execLoop count s
  | .expr x => Sys2Proof.Machine.execExpr x s
  | .lfodelay x => Sys2Proof.Machine.execLfodelay x s
  | .tempo x => Sys2Proof.Machine.execTempo x s
  | .tie key vel => Sys2Proof.Machine.execTie key vel s
  | .eot key => Sys2Proof.Machine.execEot key s
  | .notec key vel dur => Sys2Proof.Machine.execNotec key vel dur s
  | .loopend => Sys2Proof.Machine.execLoopend s
  | .ret => Sys2Proof.Machine.execRet s
  | .fine => Sys2Proof.Machine.execFine s

end Sys2Proof.Machine
end

