-- ==== Sys2Proof/Machine/Execute.lean ====
section
/-! DEFINITION. The meaning of every command on the block of any profile, with the arms of `exec` (Machine/Dispatch.lean): `exec` is
`execute` at the reference profile (`exec_eq_execute`, Laws/Step.lean). -/

namespace Sys2Proof.Machine

/-- Execute a command on the executing track (R220), for any profile. -/
def execute {P : Profile} (i : Instr) (s : State P) : Result P :=
  match i with
  | .note key vel dur => execNote key vel dur s
  | .rest n => execRest n s
  | .voice v => execVoice v s
  | .trackOpen tr x => execTrackOpen tr x s
  | .jump x => execJump x s
  | .call x => execCall x s
  | .varSet v imm => execVarSet v imm s
  | .varAdd v imm => execVarAdd v imm s
  | .varSub v imm => execVarSub v imm s
  | .varMul v imm => execVarMul v imm s
  | .varDiv v imm => execVarDiv v imm s
  | .varShift v imm => execVarShift v imm s
  | .varRand v imm => execVarRand v imm s
  | .varReserved v imm => execVarReserved v imm s
  | .varEq v imm => execVarEq v imm s
  | .varGe v imm => execVarGe v imm s
  | .varGt v imm => execVarGt v imm s
  | .varLe v imm => execVarLe v imm s
  | .varLt v imm => execVarLt v imm s
  | .varNe v imm => execVarNe v imm s
  | .pan x => execPan x s
  | .vol x => execVol x s
  | .transpose x => execTranspose x s
  | .bend x => execBend x s
  | .bendrange x => execBendrange x s
  | .prio x => execPrio x s
  | .lfodepth x => execLfodepth x s
  | .lfospeed x => execLfospeed x s
  | .lfotarget x => execLfotarget x s
  | .lforange x => execLforange x s
  | .attack x => execAttack x s
  | .decay x => execDecay x s
  | .sustain x => execSustain x s
  | .release x => execRelease x s
  | .loop count => execLoop count s
  | .expr x => execExpr x s
  | .lfodelay x => execLfodelay x s
  | .tempo x => execTempo x s
  | .tie key vel => execTie key vel s
  | .eot key => execEot key s
  | .notec key vel dur => execNotec key vel dur s
  | .loopend => execLoopend s
  | .ret => execRet s
  | .fine => execFine s

end Sys2Proof.Machine
end

