-- ==== Sys2Proof/Machine/Walk.lean ====
section
/-! DEFINITION. The structural walk of a load (40_sequence_decoder.md R180 to R189): it decodes every reachable command once per track. The
recursion `WalkPath` is held as data, a path position and a list of call continuations, and moves one decoded command at a time. -/

namespace Sys2Proof.Machine

/-- What stops a load: a fatal load error (R491), or a fault or refusal of the machine itself. -/
inductive LoadStop where
  | error (e : LoadError)
  | fault (f : Fault)
  | refused (r : Refusal)
deriving DecidableEq, Repr

/-- A command list entry during the walk: with the running-status byte it was decoded with, if it is a running-status command (R184). -/
structure WalkEntry where
  cmd : Instr
  len : Nat
  viaRs : Option Byte
deriving DecidableEq, Repr

/-- The command lists the walk builds, each sorted by offset (R189). -/
abbrev WalkTables := Vector (List (Nat × WalkEntry)) Config.maxTracks

/-- Where a path goes on after a call: the offset after the `Call` and the running-status byte kept for it (R181, R184). -/
structure WalkFrame where
  p : Nat
  rs : Option Byte
deriving DecidableEq, Repr

/-- The walk (R181): the lists so far, the pending queue, and the path being walked; the path's depth is the number of frames. -/
structure Walk where
  tables : WalkTables
  pending : List (TrackId × Nat)
  t : TrackId
  p : Nat
  rs : Option Byte
  frames : List WalkFrame
deriving DecidableEq, Repr

/-- One move of the walk. -/
inductive WalkOut where
  | more (w : Walk)
  | done (tables : WalkTables)
  | error (e : LoadError)
deriving DecidableEq, Repr

/-- The entry at an offset of a sorted list. -/
def lookupWalk : List (Nat × WalkEntry) → Nat → Option WalkEntry
  | [], _ => none
  | (p, e) :: es, x => if p = x then some e else lookupWalk es x

/-- The sorted list with an entry put at an offset (R189). -/
def insertWalk : List (Nat × WalkEntry) → Nat → WalkEntry → List (Nat × WalkEntry)
  | [], x, e => [(x, e)]
  | (p, d) :: es, x, e =>
    if x < p then (x, e) :: (p, d) :: es
    else if x = p then (x, e) :: es
    else (p, d) :: insertWalk es x e

/-- The path being walked returns: to its caller, or the queue's next pair starts a new path (R181). -/
def Walk.pathDone (w : Walk) : WalkOut :=
  match w.frames with
  | f :: fs => .more { w with p := f.p, rs := f.rs, frames := fs }
  | [] =>
    match w.pending with
    | [] => .done w.tables
    | (t, p) :: rest => .more { w with pending := rest, t := t, p := p, rs := none, frames := [] }

/-- The error raised at the path's position, with the byte there (R183, R493). -/
def Walk.raise (w : Walk) (rom : Memory) (k : LoadErrorKind) : WalkOut := .error ⟨k, some w.t, some w.p, rom.read w.p⟩

/-- Where the path goes after a newly decoded command (R181); a target is checked before the call depth (R498). -/
def Walk.follow (P : Profile) (w : Walk) (rom : Memory) (d : Decoded) : WalkOut :=
  match d.cmd with
  | .fine => w.pathDone
  | .ret => w.pathDone
  | .jump x => if rom.len ≤ x.toNat then w.raise rom .outOfBounds else .more { w with p := x.toNat, rs := d.rsNext }
  | .call x =>
    if rom.len ≤ x.toNat then w.raise rom .outOfBounds
    else if P.stackDepth < w.frames.length + 1 then w.raise rom .callStackOverflow
    else .more { w with p := x.toNat, rs := d.rsNext, frames := ⟨w.p + d.len, d.rsNext⟩ :: w.frames }
  | .trackOpen i x => .more { w with pending := w.pending ++ [(i, x.toNat)], p := w.p + d.len, rs := d.rsNext }
  | _ => .more { w with p := w.p + d.len, rs := d.rsNext }

/-- The walk's lists with a decoded command entered at the path's position (R181, R184). -/
def Walk.enter (w : Walk) (d : Decoded) : Walk :=
  { w with tables := w.tables.set w.t (insertWalk w.tables[w.t] w.p ⟨d.cmd, d.len, d.viaRs⟩) }

/-- One iteration of `WalkPath`'s loop (R181). -/
def Walk.step (P : Profile) (rom : Memory) (w : Walk) : WalkOut :=
  if rom.len ≤ w.p then w.raise rom .outOfBounds
  else
    match lookupWalk w.tables[w.t] w.p with
    | some e => if e.viaRs.isSome = true ∧ e.viaRs ≠ w.rs then w.raise rom .invalidRunningStatus else w.pathDone
    | none =>
      match decodeAt P.toDecodeProfile w.rs (rom.bytesFrom w.p maxFormatBytes) with
      | .error k => w.raise rom k
      | .ok d => (w.enter d).follow P rom d

/-- At most `n` iterations of the walk. -/
def walkLoop (P : Profile) (rom : Memory) : Nat → Walk → Except LoadStop WalkTables
  | 0, _ => .error (.fault .walkDiverged)
  | n + 1, w =>
    match w.step P rom with
    | .more w' => walkLoop P rom n w'
    | .done tables => .ok tables
    | .error e => .error (.error e)

/-- The pairs the queue first holds: every present start, in track order (R181). -/
def startPairs (starts : StartTable) : List (TrackId × Nat) :=
  (List.finRange Config.maxTracks).filterMap fun t =>
    match starts[t] with
    | some x => some (t, x.toNat)
    | none => none

/-- A bound on the walk's iterations (R187): each enters one of 16 * SEQ_LEN offsets, or returns from one of the paths that the starts,
the entered calls and the entered track opens began. -/
def walkBound (rom : Memory) : Nat := 64 * rom.len + 64

/-- The structural walk of a song (R181): the command lists, before the accounting stamps them. -/
def walk (P : Profile) (song : Song) : Except LoadStop WalkTables :=
  match startPairs song.starts with
  | [] => .ok (Vector.replicate Config.maxTracks [])
  | (t, p) :: rest =>
    walkLoop P song.rom (walkBound song.rom) ⟨Vector.replicate Config.maxTracks [], rest, t, p, none, []⟩

end Sys2Proof.Machine
end

