-- ==== Sys2Proof/Machine/Accounting.lean ====
section
/-! DEFINITION. The tick accounting pass of a load and the load itself (40_sequence_decoder.md R190 to R199). The pass runs the commands' own
meanings on a scratch state, so that it executes exactly what playback executes; of the scratch state only `opened`, `stopped`,
`cursor`, `rest` and `stack` steer it, its channels are never stepped, and the load discards all of it but the song table (R190). -/

namespace Sys2Proof.Machine

variable {P : Profile}

/-- The accounting state (R191): the scratch state, whose `elapsed` is the pass's E, and `done`, `length`, `cycleTick` per track. -/
structure Acct (P : Profile) where
  m : State P
  done : Vector Bool Config.maxTracks
  length : Vector Nat Config.maxTracks
  cycle : Vector (Option Nat) Config.maxTracks
deriving DecidableEq, Repr

/-- `CycleKnown(stack)` (R193): no `Call` entry, and every `Loop` entry endless. -/
def cycleKnown : List StackEntry → Bool
  | [] => true
  | .call _ :: _ => false
  | .loop _ r :: rest => decide (r = 0) && cycleKnown rest

/-- A load error at the executing track's cursor, with the byte there (R192). -/
def Acct.raise (a : Acct P) (k : LoadErrorKind) : LoadStop :=
  .error ⟨k, some a.m.cur, some a.m.track.cursor, a.m.seqRom.read a.m.track.cursor⟩

/-- A meaning's fault during the pass: a command's own error is a load error (R192, R198). -/
def Acct.stopOf (a : Acct P) : Fault → LoadStop
  | .callStackOverflow => a.raise .callStackOverflow
  | .returnUnderflow => a.raise .returnUnderflow
  | .badLoopEnd => a.raise .badLoopEnd
  | .noCommand => .fault .noCommand
  | .unsoundChannel => .fault .unsoundChannel
  | .walkDiverged => .fault .walkDiverged

/-- The tick set with E added; it is rising because E never falls during the pass (R195). -/
def stampTicks (ticks : List Nat) (e : Nat) : List Nat := if e ∈ ticks then ticks else ticks ++ [e]

/-- The list with the entry at an offset stamped (R195). -/
def stampList : CmdList → Nat → Nat → CmdList
  | [], _, _ => []
  | (p, d) :: es, x, e => if p = x then (p, { d with ticks := stampTicks d.ticks e }) :: es else (p, d) :: stampList es x e

/-- The scratch state with the command at the executing track's cursor stamped (R195). -/
def State.stamp (s : State P) : State P :=
  match s.song with
  | none => s
  | some g => { s with song := some { g with cmds := g.cmds.set s.cur (stampList g.cmds[s.cur] s.track.cursor s.elapsed) } }

/-- A track that a `TrackOpen` has just opened is no longer done (R192, R247). -/
def reopened (before after : State P) (done : Vector Bool Config.maxTracks) : Vector Bool Config.maxTracks :=
  vecOfFn fun i => if !before.tracks[i].opened && after.tracks[i].opened then false else done[i]

/-- The end of `AcctExec(t)`: a stopped track is done at this tick (R192, R194). -/
def Acct.settle (a : Acct P) : Acct P :=
  if a.m.track.stopped then { a with done := a.done.set a.m.cur true, length := a.length.set a.m.cur a.m.elapsed } else a

/-- The executing track's cycle is known: its first command again, first executed at tick `first` (R193). -/
def Acct.closeCycle (a : Acct P) (first : Nat) : Acct P :=
  { a with
    done := a.done.set a.m.cur true
    length := a.length.set a.m.cur a.m.elapsed
    cycle := a.cycle.set a.m.cur (some first) }

/-- `AcctExec(t)` (R192) with `n` commands left before EXEC_LIMIT, t being the scratch state's executing track. -/
def acctExec : Nat → Acct P → Except LoadStop (Acct P)
  | n, a =>
    if a.done[a.m.cur] || a.m.track.stopped || decide (a.m.track.rest ≠ 0) then .ok a.settle
    else
      match n with
      | 0 => .error (a.raise .zeroTickLoop)
      | n + 1 =>
        match a.m.fetch with
        | none => .error (.fault .noCommand)
        | some e =>
          if e.ticks ≠ [] ∧ cycleKnown a.m.track.stack = true then
            if e.ticks.headD 0 = a.m.elapsed then .error (a.raise .zeroTickLoop) else .ok (a.closeCycle (e.ticks.headD 0))
          else
            match execute e.cmd a.m.stamp with
            | .next m' => acctExec n { a with m := m', done := reopened a.m m' a.done }
            | .fault f => .error (a.stopOf f)
            | .refused r => .error (.refused r)

/-- Do `f` for each track of a list in order, stopping at the first error. -/
def overTracks (f : TrackId → Acct P → Except LoadStop (Acct P)) : List TrackId → Acct P → Except LoadStop (Acct P)
  | [], a => .ok a
  | t :: ts, a =>
    match f t a with
    | .ok a' => overTracks f ts a'
    | .error e => .error e

/-- The tick-0 pass for one track (R192). -/
def acctTickZero (t : TrackId) (a : Acct P) : Except LoadStop (Acct P) :=
  if a.done[t] || a.m.tracks[t].stopped then .ok a else acctExec P.execLimit { a with m := { a.m with cur := t } }

/-- The rest countdown of one track (R275). -/
def Track.countRest (t : Track) : Track := { t with rest := t.rest - 1 }

/-- One track's part of an accounting tick (R192). -/
def acctTrack (t : TrackId) (a : Acct P) : Except LoadStop (Acct P) :=
  if a.m.tracks[t].opened && !a.m.tracks[t].stopped && !a.done[t] then
    let a' := { a with m := { a.m.setTrack t a.m.tracks[t].countRest with cur := t } }
    if a'.m.track.rest = 0 then acctExec P.execLimit a' else .ok a'
  else .ok a

/-- Whether every track is done (R197). -/
def Acct.allDone (a : Acct P) : Bool := a.done.toList.all id

/-- The accounting loop (R192) with `n` ticks left before ACCOUNT_LIMIT. -/
def acctLoop : Nat → Acct P → Except LoadStop (Acct P)
  | n, a =>
    if a.allDone then .ok a
    else
      match n with
      | 0 => .error (.error ⟨.accountLimit, none, none, none⟩)
      | n + 1 =>
        match overTracks acctTrack (List.finRange Config.maxTracks) { a with m := { a.m with elapsed := a.m.elapsed + 1 } } with
        | .ok a' => acctLoop n a'
        | .error e => .error e

/-- The unstamped entry of a walked command (R39). -/
def entryOf (p : Nat × WalkEntry) : Nat × Entry := (p.1, ⟨p.2.cmd, p.2.len, []⟩)

/-- The song table before the accounting. -/
def provisional (song : Song) (tables : WalkTables) : SongTable where
  start := song.starts
  cmds := vecMap (fun es => es.map entryOf) tables
  maxTicks := 0
  longest := 0
  loopStartTick := none

/-- The accounting state at its start (R191). -/
def acctStart (s : State P) (song : Song) (tables : WalkTables) : Acct P where
  m :=
    { s with
      seqRom := song.rom
      song := some (provisional song tables)
      tracks := vecMap Track.reset song.starts
      elapsed := 0 }
  done := vecMap Option.isNone song.starts
  length := Vector.replicate Config.maxTracks 0
  cycle := Vector.replicate Config.maxTracks none

/-- The longest track so far among a list of tracks: the lowest index of the greatest length, opened tracks only (R196). -/
def longestOf (a : Acct P) : List TrackId → Option TrackId → Option TrackId
  | [], best => best
  | t :: ts, best =>
    if a.m.tracks[t].opened then
      match best with
      | none => longestOf a ts (some t)
      | some b => longestOf a ts (if a.length[b] < a.length[t] then some t else some b)
    else longestOf a ts best

/-- The results installed in the song table (R196). -/
def acctResult (a : Acct P) (g : SongTable) : SongTable :=
  match longestOf a (List.finRange Config.maxTracks) none with
  | none => { g with maxTicks := 0, longest := 0, loopStartTick := none }
  | some t => { g with maxTicks := a.length[t], longest := t, loopStartTick := a.cycle[t] }

/-- The accounting pass over the walked lists (R190 to R198): the song table with its ticks and results. -/
def account (s : State P) (song : Song) (tables : WalkTables) : Except LoadStop SongTable :=
  match overTracks acctTickZero (List.finRange Config.maxTracks) (acctStart s song tables) with
  | .error e => .error e
  | .ok a0 =>
    match acctLoop P.accountLimit a0 with
    | .error e => .error e
    | .ok a =>
      match a.m.song with
      | none => .error (.fault .noCommand)
      | some g => .ok (acctResult a g)

/-- The song with the entries of the start table that belong to tracks 0 .. N_TRACKS - 1 (R38, R40): all of them in the reference profile. -/
def Song.trim (P : Profile) (song : Song) : Song :=
  { song with starts := vecOfFn fun t => if t.val < P.numTracks then song.starts[t] else none }

/-- A load (R180): the walk, then the accounting pass; the song table or what stopped it. The profile is its parameter input. -/
def load (s : State P) (song : Song) : Except LoadStop SongTable :=
  match walk P (song.trim P) with
  | .error e => .error e
  | .ok tables => account s (song.trim P) tables

end Sys2Proof.Machine
end

