-- ==== Sys2Proof/Machine/Resampler.lean ====
section
/-! DEFINITION. The PCM resampler of 45_voice_pcm_resampler.md: sample fetch in three formats, the phase accumulator, loop wrap and end of
sample. -/

namespace Sys2Proof.Machine

/-- `Sample(ch, j)` of a PCM8 or PCM16 region (R381, R382). -/
def linearSample (rom : Memory) (g : Region) (j : Nat) : Int :=
  match g.format with
  | .pcm8 => sext8 (rom.byteNat (g.addr + j)) * 256
  | _ => sext16 (rom.halfNat (g.addr + 2 * j))

/-- `Resample(ch)` (R385, R386): the sample, and the codec after it (R383; only an ADPCM region moves it). -/
def resample (P : Profile) (rom : Memory) (g : Region) (ch : Channel) : Int × Codec :=
  match g.format with
  | .adpcm => ((ch.codec.seek P rom g ch.pos).pred, ch.codec.seek P rom g ch.pos)
  | _ =>
    match P.interp with
    | .carry => (linearSample rom g ch.pos, ch.codec)
    | .linear =>
      (linearSample rom g ch.pos +
          asr (((if ch.pos + 1 < g.length then linearSample rom g (ch.pos + 1) else linearSample rom g ch.pos) -
              linearSample rom g ch.pos) * (ch.frac.toNat : Int)) 16,
        ch.codec)

/-- `Wrap(ch)` (R387). -/
def Channel.wrap (P : Profile) (rom : Memory) (g : Region) (ch : Channel) : Channel :=
  { ch with
    pos := g.loopStart + (ch.pos - g.length) % (g.length - g.loopStart)
    codec := if g.format = .adpcm then ch.codec.wrap P rom g else ch.codec }

/-- The position after one output sample: `frac + step` carries into `pos` (R384). -/
def Channel.advancePos (ch : Channel) : Channel :=
  { ch with
    pos := ch.pos + (ch.frac.toNat + ch.step) / 65536
    frac := BitVec.ofNat 16 (ch.frac.toNat + ch.step) }

/-- What follows the advance: at or past the end, wrap a well-formed loop (R387), else the channel dies (R388, R320). -/
def Channel.endCheck (P : Profile) (rom : Memory) (g : Region) (ch : Channel) : Channel :=
  if g.length ≤ ch.pos then if g.loopOk then ch.wrap P rom g else ch.die else ch

/-- `RenderPcm(ch, k)` (R384): the sample emitted and the channel after it. -/
def renderPcm (P : Profile) (rom : Memory) (g : Region) (ch : Channel) : Int × Channel :=
  ((resample P rom g ch).1,
    Channel.endCheck P rom g (Channel.advancePos { ch with codec := (resample P rom g ch).2 }))

end Sys2Proof.Machine
end

