-- ==== Sys2Proof/Machine/Waveform.lean ====
section
/-! DEFINITION. The square, wavetable and noise generators of 46_voice_waveform.md. -/

namespace Sys2Proof.Machine

/-- The four duty patterns (R410). -/
def dutyPattern (d : Fin 4) : List Nat :=
  match d with
  | 0 => [0, 0, 0, 0, 0, 0, 0, 1]
  | 1 => [1, 0, 0, 0, 0, 0, 0, 1]
  | 2 => [1, 0, 0, 0, 0, 1, 1, 1]
  | 3 => [0, 1, 1, 1, 1, 1, 1, 0]

/-- The square's value at a phase (R411): the pattern's step is the top three bits. -/
def squareValue (amp : Int) (d : Fin 4) (phase : Word32) : Int :=
  if (dutyPattern d).getD (phase.toNat / 536870912) 0 = 1 then amp else -amp

/-- Sample n = 0..31 of a wavetable: the high nibble of its byte when n is even (R416). -/
def waveNibble (w : Vector Byte 16) (n : Nat) : Nat :=
  if n % 2 = 0 then (w.toList.getD (n / 2) 0#8).toNat / 16 else (w.toList.getD (n / 2) 0#8).toNat % 16

/-- The wavetable's value at a phase (R417): the sample is the top five bits, its scale an eighth of `SYNTH_AMP` (R406), which is R417's
1024 in the reference profile (log 27). -/
def waveValue (amp : Int) (w : Vector Byte 16) (phase : Word32) : Int :=
  asr (((waveNibble w (phase.toNat / 134217728) : Int) - 8) * amp) 3

/-- The LFSR clock (R421): pattern 0 is the 15-bit mode, pattern 1 the 7-bit mode. -/
def lfsrClock (pattern : Fin 2) (x : BitVec 15) : BitVec 15 :=
  let fb := (x ^^^ (x >>> 1)) &&& 1#15
  let y := (x >>> 1) ||| (fb <<< 14)
  if pattern = 1 then (y &&& ~~~0x40#15) ||| (fb <<< 6) else y

/-- The noise value of a register (R422). -/
def noiseValue (amp : Int) (x : BitVec 15) : Int := if x &&& 1#15 = 0#15 then amp else -amp

/-- The phase after one output sample (R405). -/
def Channel.advancePhase (ch : Channel) : Channel := { ch with phase := BitVec.ofNat 32 (ch.phase.toNat + ch.step) }

/-- `Render` of a square channel (R411). -/
def renderSquare (amp : Int) (d : Fin 4) (ch : Channel) : Int × Channel := (squareValue amp d ch.phase, ch.advancePhase)

/-- `Render` of a wave channel (R417). -/
def renderWave (amp : Int) (w : Vector Byte 16) (ch : Channel) : Int × Channel := (waveValue amp w ch.phase, ch.advancePhase)

/-- `Render` of a noise channel (R422): the register is clocked when the phase carries out. -/
def renderNoise (amp : Int) (pattern : Fin 2) (ch : Channel) : Int × Channel :=
  (noiseValue amp ch.lfsr,
    { ch.advancePhase with
      lfsr := if 4294967296 ≤ ch.phase.toNat + ch.step then lfsrClock pattern ch.lfsr else ch.lfsr })

end Sys2Proof.Machine
end

