-- ==== Sys2Proof/Machine/Mixer.lean ====
section
/-! DEFINITION. The fixed channel mixer and the fade gain ramp (47_mixer_allocator.md R470 to R480). -/

namespace Sys2Proof.Machine

variable {P : Profile}

/-! ## Fade (R476 to R478) -/

/-- `FadeGain()` in Q16 (R476), with exponent `FADE_EXP`. -/
def fadeGain (exponent : Nat) : Fade → Int
  | .none => 65536
  | .fadeOut n total => ((65536 * (total - n) ^ exponent / total ^ exponent : Nat) : Int)
  | .fadeIn n total => ((65536 * n ^ exponent / total ^ exponent : Nat) : Int)
  | .done => 0

/-- `FadeAdvance()` (R478). -/
def fadeAdvance : Fade → Fade
  | .none => .none
  | .fadeOut n total => if n + 1 = total then .done else .fadeOut (n + 1) total
  | .fadeIn n total => if n + 1 = total then .none else .fadeIn (n + 1) total
  | .done => .done

/-- `BeginFadeOut()` (R477). -/
def beginFadeOut (samples : Nat) : Fade := if samples = 0 then .done else .fadeOut 0 samples

/-- The fade that `FadeIn` begins (R506). -/
def beginFadeIn (samples : Nat) : Fade := if samples = 0 then .none else .fadeIn 0 samples

/-! ## Mixing (R470 to R475) -/

/-- `Render(ch, k)` (R471): by the instrument's class; a channel with no instrument renders nothing (`renderable` rules it out). -/
def renderChannel (P : Profile) (rom : Memory) (ch : Channel) : Int × Channel :=
  match ch.inst with
  | none => (0, ch)
  | some i =>
    match i.payload with
    | .pcm g => renderPcm P rom g ch
    | .square d => renderSquare P.synthAmp d ch
    | .wave w => renderWave P.synthAmp w ch
    | .noise p => renderNoise P.synthAmp p ch

/-- A live channel may be rendered: it has an owner and an instrument (R48), and for PCM its region lies in `sample_rom` (R113), its
position in the region (R389), and its codec has not passed the loop point without a snapshot (R357). -/
def Channel.renderable (rom : Memory) (ch : Channel) : Bool :=
  !ch.live ||
    (ch.owner.isSome &&
      match ch.inst with
      | none => false
      | some i =>
        match i.payload with
        | .pcm g =>
          g.fits rom && decide (ch.pos < g.length) &&
            (decide (g.format ≠ .adpcm) || !g.loopOk || ch.codec.snap.isSome || decide (ch.codec.nib ≤ g.loopStart))
        | _ => true)

/-- A track's accumulation buffer at one output sample: left and right (R52). -/
abbrev Buffers := Vector (Int × Int) Config.maxTracks

/-- A channel's contribution to one side (R472). -/
def contribution (sample : Int) (gain : Nat) : Int := asr (sample * (gain : Int)) 7

/-- Add a sample of a channel with the given gains to its owner's buffer (R470). -/
def addTo (bufs : Buffers) (u : TrackId) (sample : Int) (gainL gainR : Nat) : Buffers :=
  bufs.set u (bufs[u].1 + contribution sample gainL, bufs[u].2 + contribution sample gainR)

/-- Every channel's part in one output sample, in increasing channel index (R470): the channels after it and the track buffers. -/
def renderChannels (P : Profile) (rom : Memory) : List Channel → Buffers → List Channel × Buffers
  | [], bufs => ([], bufs)
  | ch :: rest, bufs =>
    if ch.live then
      match ch.owner with
      | none => let r := renderChannels P rom rest bufs; (ch :: r.1, r.2)
      | some u =>
        let out := renderChannel P rom ch
        let r := renderChannels P rom rest (addTo bufs u out.1 ch.gainL ch.gainR)
        (out.2 :: r.1, r.2)
    else
      let r := renderChannels P rom rest bufs
      (ch :: r.1, r.2)

/-- Bit t of `muteMask` (R473). -/
def muted (mask : Half) (t : TrackId) : Bool := mask.getLsbD t.val

/-- The sum of the unmuted tracks' buffers (R473). -/
def mixDown (mask : Half) (bufs : Buffers) : Int × Int :=
  (List.finRange Config.maxTracks).foldl
    (fun acc t => if muted mask t then acc else (acc.1 + bufs[t].1, acc.2 + bufs[t].2)) (0, 0)

/-- One output pair: the mix times the fade gain, clamped to s16 (R470, R474). -/
def outputPair (mix : Int × Int) (g : Int) : Int × Int := (clampS16 (asr (mix.1 * g) 16), clampS16 (asr (mix.2 * g) 16))

/-- Empty track buffers (R470). -/
def clearBuffers : Buffers := Vector.replicate Config.maxTracks (0, 0)

/-- `n` output samples of `RenderQuantum()` in `Playing` (R470): the channels and the fade after them, and the pairs, sample 0 first. -/
def renderSamples (P : Profile) (rom : Memory) (mask : Half) : Nat → List Channel → Fade → List Channel × Fade × List (Int × Int)
  | 0, chs, fade => (chs, fade, [])
  | n + 1, chs, fade =>
    let r := renderChannels P rom chs clearBuffers
    let rest := renderSamples P rom mask n r.1 (fadeAdvance fade)
    (rest.1, rest.2.1, outputPair (mixDown mask r.2) (fadeGain P.fadeExp fade) :: rest.2.2)

/-- The channels after every one of them took part in an output sample keep their number. -/
theorem renderChannels_length (P : Profile) (rom : Memory) (chs : List Channel) (bufs : Buffers) :
    (renderChannels P rom chs bufs).1.length = chs.length := by
  induction chs generalizing bufs with
  | nil => rfl
  | cons ch rest ih =>
    unfold renderChannels
    split
    · split <;> simp [ih]
    · simp [ih]

/-- A quantum keeps the number of channels. -/
theorem renderSamples_length (P : Profile) (rom : Memory) (mask : Half) (n : Nat) (chs : List Channel) (fade : Fade) :
    (renderSamples P rom mask n chs fade).1.length = chs.length := by
  induction n generalizing chs fade with
  | zero => rfl
  | succ n ih => simp [renderSamples, ih, renderChannels_length]

/-- The pool as a list, back as a vector of the same size. -/
def poolFrom {n : Nat} (chs : List Channel) (h : chs.length = n) : Vector Channel n := ⟨⟨chs⟩, h⟩

/-- One silent quantum (R480). -/
def silentQuantum (P : Profile) : List (Int × Int) := List.replicate P.samplesPerFrame (0, 0)

/-- What a quantum of `SAMPLES_PER_FRAME` output samples renders in `Playing` (R470): channels, fade and pairs. -/
def State.quantum (s : State P) : List Channel × Fade × List (Int × Int) :=
  renderSamples P s.sampleRom s.muteMask P.samplesPerFrame s.channels.toList s.fade

/-- The state after a quantum rendered in `Playing` (R470): only the channels' render fields and deaths, the fade and `pcm_out` change. -/
def State.afterQuantum (s : State P) : State P :=
  { s with
    channels := poolFrom s.quantum.1
      ((renderSamples_length P s.sampleRom s.muteMask P.samplesPerFrame s.channels.toList s.fade).trans (by simp))
    fade := s.quantum.2.1
    pcmOut := s.quantum.2.2 }

/-- `RenderQuantum()` (R470, R480), then `k`; a channel that R48, R113, R357 or R389 rules out faults. -/
def withQuantum (s : State P) (k : State P → Result P) : Result P :=
  if s.mode = .playing then
    if s.channels.toList.all (Channel.renderable s.sampleRom) then k s.afterQuantum else .fault .unsoundChannel
  else k { s with pcmOut := silentQuantum P }

/-- The bytes of `pcm_out` on the wire (R474): left then right, each little-endian 16-bit. -/
def pcmWire (pairs : List (Int × Int)) : List Byte :=
  pairs.flatMap fun p =>
    [BitVec.ofInt 8 p.1, BitVec.ofInt 8 (asr p.1 8), BitVec.ofInt 8 p.2, BitVec.ofInt 8 (asr p.2 8)]

end Sys2Proof.Machine
end

