-- ==== Sys2Proof/Machine/HostCommands.lean ====
section
/-! DEFINITION. The host command surface (60_exceptions.md R500 to R508). `Play` and `SetCurrentPosition` begin a tick-0 pass (R271, R285), which
the sequencer carries on; every other command is performed at once. -/

namespace Sys2Proof.Machine

variable {P : Profile}

/-- Enqueue a host command (R500): the host's only write to the block besides `mute_mask`. -/
def State.enqueue (s : State P) (c : HostCmd) : State P := { s with hostQueue := s.hostQueue ++ [c] }

/-- The input `mute_mask` as the host drives it (R37). -/
def State.driveMute (s : State P) (mask : Half) : State P := { s with muteMask := mask }

/-- What `StartPlayback` and `StopAll` both write (R271, R503): channels dead, tracks reset, engine counters, tempo and fade. -/
def State.rewind (s : State P) : State P :=
  { s with
    channels := vecMap Channel.die s.channels
    tracks := vecMap Track.reset s.startTable
    tempo := P.tempoReset
    tempoStack := 0
    elapsed := 0
    loopCount := 0
    fade := .none }

/-- `StopAll()` (R503). -/
def State.stopAll (s : State P) : State P :=
  { s.rewind with mode := if s.song.isSome then .stopped else .noSong }

/-- The state `LoadSong` loads into: `StopAll`, the old song table discarded, the song's ports driven (R501). -/
def State.unload (s : State P) (song : Song) : State P :=
  { s.stopAll with song := none, mode := .noSong, seqRom := song.rom, trackStarts := song.starts }

/-- `LoadSong(song)` (R501, R491). -/
def performLoad (song : Song) (s : State P) : Result P :=
  if P.seqSizeMax < song.rom.len then .refused .songTooLong
  else
    match load (s.unload song) song with
    | .ok g => .next { s.unload song with song := some g, loadStatus := .ok, mode := .stopped }
    | .error (.error e) => .next { s.unload song with loadStatus := .failed e }
    | .error (.fault f) => .fault f
    | .error (.refused r) => .refused r

/-- `Play()` (R502): start from `Stopped`, resume from `Paused`, else no effect. -/
def performPlay (s : State P) : Result P :=
  match s.mode with
  | .stopped => .next { s.rewind with phase := .pass .play, cur := 0 }
  | .paused => .next { s with mode := .playing }
  | .playing => .next s
  | .noSong => .next s

/-- `Stop()` (R503). -/
def performStop (s : State P) : Result P :=
  match s.mode with
  | .playing => .next s.stopAll
  | .paused => .next s.stopAll
  | .stopped => .next s
  | .noSong => .next s

/-- `Pause()` (R504). -/
def performPause (s : State P) : Result P :=
  match s.mode with
  | .playing => .next { s with mode := .paused }
  | .paused => .next s
  | .stopped => .next s
  | .noSong => .next s

/-- `SetCurrentPosition(ticks)` (R505, R285): the seek begins with `StartPlayback`. -/
def performSeek (target : Nat) (s : State P) : Result P :=
  match s.mode with
  | .noSong => .next s
  | m => .next { s.rewind with seeking := true, phase := .pass (.seek m target), cur := 0 }

/-- `FadeIn()` (R506). -/
def performFadeIn (s : State P) : Result P :=
  match s.mode with
  | .playing => .next { s with fade := beginFadeIn P.fadeSamples }
  | .paused => .next { s with fade := beginFadeIn P.fadeSamples }
  | .stopped => .next s
  | .noSong => .next s

/-- `ShutDown()` (R508): afterwards the block behaves as after PowerOn, so the tracks are reset with no start table. -/
def performShutDown (s : State P) : Result P :=
  .next
    { s.stopAll with
      song := none
      mode := .noSong
      tracks := Vector.replicate Config.maxTracks (Track.reset none)
      taken := [] }

/-- Perform one host command (R500): every command is legal in every mode. -/
def perform (c : HostCmd) (s : State P) : Result P :=
  match c with
  | .loadSong song => performLoad song s
  | .play => performPlay s
  | .stop => performStop s
  | .pause => performPause s
  | .setCurrentPosition ticks => performSeek ticks s
  | .fadeIn => performFadeIn s
  | .shutDown => performShutDown s

end Sys2Proof.Machine
end

