-- ==== Sys2Proof/Machine/Telemetry.lean ====
section
/-! DEFINITION. The telemetry port (60_exceptions.md R507) and the load status port's code (R492). -/

namespace Sys2Proof.Machine

variable {P : Profile}

/-- The channels of a track in increasing channel index: `channels(t)` (R45). -/
def State.channelsOf (s : State P) (t : TrackId) : List Channel := s.channels.toList.filter fun ch => ch.ownedBy t

/-- The voice class of a track's lowest-indexed live channel, or none (R507). -/
def State.voiceTypeOf (s : State P) (t : TrackId) : Option VoiceClass :=
  ((List.finRange P.numChannels).find? fun c => s.channels[c].ownedBy t).map P.classOf

/-- What telemetry shows of one track (R507). -/
def State.trackTelemetry (s : State P) (t : TrackId) : TrackTelemetry where
  opened := s.tracks[t].opened
  stopped := s.tracks[t].stopped
  cursor := s.tracks[t].cursor
  activeKeys := (s.channelsOf t).map Channel.key
  volume := s.tracks[t].volume
  expression := s.tracks[t].expression
  pan := s.tracks[t].pan
  pitchBend := s.tracks[t].pitchBend
  bendRange := s.tracks[t].bendRange
  transpose := s.tracks[t].transpose
  voice := s.tracks[t].voice
  voiceType := s.voiceTypeOf t

/-- `GetSongState()` of a state at a frame-step boundary (R507). -/
def telemetryOf (s : State P) : Telemetry where
  mode := s.mode
  elapsed := s.elapsed
  maxTicks := s.maxTicks
  loopCount := s.loopCount
  tempo := s.tempo
  tracks := vecOfFn s.trackTelemetry

/-- The code shown on the `load_status` port: 0 for `Ok`, else the error kind's (R492, R493). -/
def LoadStatus.code : LoadStatus → Nat
  | .ok => 0
  | .failed e => e.kind.code

end Sys2Proof.Machine
end

