-- ==== Sys2Proof/Machine/Scheduler.lean ====
section
/-! DEFINITION. The frame step and the tick scheduler (42_tick_scheduler.md R270 to R291). A frame step is a run of model steps from
`Phase.boundary` to `Phase.boundary` (log 2): one for each host command, for each command a track executes, for each track passed
over, and for the quantum at its end. -/

namespace Sys2Proof.Machine

variable {P : Profile}

/-- Fetch and execute the command at the executing track's cursor: one iteration of the command loop (R220, R278). -/
def runCommand (s : State P) : Result P :=
  match s.fetch with
  | none => .fault .noCommand
  | some e => execute e.cmd s

/-- The track after `t` in index order, if any (R271, R274). -/
def nextTrack (t : TrackId) : Option TrackId := if h : t.val + 1 < Config.maxTracks then some ⟨t.val + 1, h⟩ else none

/-! ## Ticks -/

/-- A scheduler tick begins: `E <- E + 1`, then track 0 (R273). -/
def beginTick (job : TickJob) (s : State P) : State P := { s with elapsed := s.elapsed + 1, cur := 0, phase := .tickPre job }

/-- Channel `c` after the channel steps of track `t` (R274): `ChannelTick` by the law of its class if it is in `channels(t)`. -/
def State.tickChannel (s : State P) (t : TrackId) (c : P.Chan) : Channel :=
  if s.channels[c].ownedBy t then s.channels[c].tick (P.envLaw (P.classOf c)) else s.channels[c]

/-- The first half of `TrackTick(cur)` (R274): the rest countdown (R275), `LfoStep` (R330) and `ChannelTick` of each of its channels. -/
def trackPre (job : TickJob) (s : State P) : State P :=
  { s.setTrack s.cur s.track.countRest.lfoStep with
    channels := vecOfFn fun c => s.tickChannel s.cur c
    phase := .tickRun job }

/-- `FadeTrigger()` (R284) with `LOOP_THRESHOLD`. -/
def fadeTrigger (threshold : Option Nat) (s : State P) : State P :=
  match threshold with
  | none => s
  | some n => if n < s.loopCount ∧ s.fade = .none then { s with fade := beginFadeOut P.fadeSamples } else s

/-- `LoopCheck()` (R283). -/
def loopCheck (s : State P) : State P :=
  if s.seeking then s
  else
    match s.loopStartTick with
    | none => s
    | some l =>
      if s.elapsed = s.maxTicks then
        fadeTrigger P.loopThreshold { s with elapsed := l, loopCount := s.loopCount + 1 }
      else s

/-- The end of a scheduler tick (R273): gains, then the loop check. -/
def endTick (job : TickJob) (s : State P) : Result P := withGains s fun s => .next { loopCheck s with phase := .ticks job }

/-! ## The end of a frame step -/

/-- `EndCheck()` (R290). -/
def endCheck (s : State P) : State P :=
  if s.mode = .playing ∧ ((s.tracks.toList.all Track.stopped && !s.anyLive) = true ∨ s.fade = .done) then s.stopAll else s

/-- Steps 3 and 4 of the frame step (R270): the quantum, the end check; then telemetry shows the completed step (R116). -/
def finishFrame (s : State P) : Result P :=
  withQuantum s fun s => .next { endCheck s with telemetry := telemetryOf (endCheck s), phase := .boundary }

/-! ## The seek -/

/-- The end of a seek (R285): a silent rewind at `MaxTicks` of a looping song, then the mode; the host commands go on. -/
def endSeek (m : Mode) (s : State P) : State P :=
  { s with
    elapsed :=
      match s.loopStartTick with
      | none => s.elapsed
      | some l => if s.elapsed = s.maxTicks then l else s.elapsed
    seeking := false
    mode := if m = .playing then .playing else .paused
    phase := .host }

/-! ## The phases -/

/-- A frame step begins: the commands enqueued so far are taken; later ones wait for the next frame step (R270, R500). -/
def stepBoundary (s : State P) : Result P := .next { s with taken := s.hostQueue, hostQueue := [], phase := .host }

/-- Step 1 of the frame step: the next taken command; after the last, the tempo accumulator if `Playing` (R270, R272). -/
def stepHost (s : State P) : Result P :=
  match s.taken with
  | c :: cs => perform c { s with taken := cs }
  | [] =>
    if s.mode = .playing then .next { s with tempoStack := s.tempoStack + s.tempo.toNat, phase := .ticks .frame }
    else finishFrame s

/-- The end of the tick-0 pass: gains (R271, R336), then `Play`'s mode (R502) or the seek's ticks (R285). -/
def endPass (job : PassJob) (s : State P) : Result P :=
  withGains s fun s =>
    match job with
    | .play => .next { s with mode := .playing, phase := .host }
    | .seek m target => .next { s with phase := .ticks (.seek m target) }

/-- The tick-0 pass (R271): the executing track runs a command, or the next track's turn comes. -/
def stepPass (job : PassJob) (s : State P) : Result P :=
  if s.track.runnable then runCommand s
  else
    match nextTrack s.cur with
    | some t => .next { s with cur := t }
    | none => endPass job s

/-- Between two ticks: the accumulator fires another tick while it holds `TEMPO_THRESH` (R272); a seek ticks up to its target (R285). -/
def stepTicks (job : TickJob) (s : State P) : Result P :=
  match job with
  | .frame =>
    if P.tempoThresh ≤ s.tempoStack then
      .next (beginTick .frame { s with tempoStack := s.tempoStack - P.tempoThresh })
    else finishFrame s
  | .seek m target =>
    if s.elapsed < min target s.maxTicks then .next (beginTick (.seek m target) s) else .next (endSeek m s)

/-- The second half of `TrackTick(cur)` (R274, R278): the track runs a command, or the next track's tick begins. -/
def stepTickRun (job : TickJob) (s : State P) : Result P :=
  if s.track.runnable then runCommand s
  else
    match nextTrack s.cur with
    | some t => .next { s with cur := t, phase := .tickPre job }
    | none => endTick job s

/-- One step of the block of any profile (log 2). -/
def advance (s : State P) : Result P :=
  match s.phase with
  | .boundary => stepBoundary s
  | .host => stepHost s
  | .pass job => stepPass job s
  | .ticks job => stepTicks job s
  | .tickPre job => .next (trackPre job s)
  | .tickRun job => stepTickRun job s

/-! ## Placing one instruction -/

/-- The command list that holds the one command the decoder reads from some bytes at offset 0. -/
def oneCommand (P : Profile) (bs : List Byte) : CmdList :=
  match decodeWith P.toDecodeProfile bs with
  | .ok (i, n) => [(0, ⟨i, n, []⟩)]
  | .error _ => []

/-- The start table with track 0 alone, at offset 0. -/
def startAtZero : StartTable := (Vector.replicate Config.maxTracks none).set 0 (some 0#24)

/-- The song table of one command at offset 0 of track 0. -/
def oneCommandTable (P : Profile) (bs : List Byte) : SongTable where
  start := startAtZero
  cmds := (Vector.replicate Config.maxTracks []).set 0 (oneCommand P bs)
  maxTicks := 0
  longest := 0
  loopStartTick := none

/-- The state with an instruction's bytes at offset 0 of `seq_rom`, decoded into the song table, and track 0 about to fetch it inside a
scheduler tick (log 3). -/
def placeBytes (s : State P) (bs : List Byte) : State P :=
  { s.setTrack 0 { s.tracks[(0 : TrackId)] with opened := true, stopped := false, rest := 0, cursor := 0 } with
    seqRom := Memory.ofBytes bs
    trackStarts := startAtZero
    song := some (oneCommandTable P bs)
    mode := .playing
    phase := .tickRun .frame
    cur := 0 }

end Sys2Proof.Machine
end

