-- ==== Sys2Proof/Machine/Step.lean ====
section
/-! DEFINITION. One step of the block and the placing of one instruction where the next step fetches. -/

namespace Sys2Proof.Machine

/-- One step of the machine (log 2), the block of the reference profile: a frame step of R270 is a run of these steps from one `Phase.boundary` to the next. -/
def step (s : State) : Host.Outcome State Fault Refusal := advance s

/-- The state `s` with an instruction of `nbits` bits `w` stored where `step` fetches its next instruction (log 3). -/
def State.withFetchWord (s : State) (nbits w : Nat) : State := placeBytes s (wordBytes nbits w)

end Sys2Proof.Machine
end

