-- ==== Sys2Proof/Machine/Frame.lean ====
section
/-! DEFINITION. A whole frame step (42_tick_scheduler.md R270) as a run of model steps from one frame-step boundary to the next. -/

namespace Sys2Proof.Machine

/-- The frame step from a boundary state, if it takes at most `n` model steps: its outcome at the next boundary, or the stop inside it. -/
def frameStep : Nat → State → Option Result
  | 0, _ => none
  | n + 1, s =>
    match step s with
    | .next s' => if s'.phase = .boundary then some (.next s') else frameStep n s'
    | .fault f => some (.fault f)
    | .refused r => some (.refused r)

end Sys2Proof.Machine
end

