-- ==== Sys2Proof/Safety.lean ====
section
/-! DEFINITION. What a safe state is, in the terms the statements use: the ranges and agreements that the rules of spec/ promise of every
state a run reaches. -/

namespace Sys2Proof.Machine

/-- A stack entry holds u24 offsets, and a u8 count (R44). -/
def StackEntry.inRange : StackEntry → Prop
  | .call ret => ret < 16777216
  | .loop body remaining => body < 16777216 ∧ remaining < 256

/-- The ranges of a track's registers (R41 to R44); the byte and half-word registers have theirs by their types. -/
def Track.inRange (t : Track) : Prop :=
  (t.opened = false → t.stopped = true) ∧ t.cursor < 16777216 ∧ t.rest < 268435456 ∧ t.voice < 268435456 ∧ t.volume ≤ 127 ∧
    t.expression ≤ 127 ∧ -64 ≤ t.pan ∧ t.pan ≤ 63 ∧ t.stack.length ≤ Config.stackDepth ∧ ∀ x ∈ t.stack, x.inRange

/-- Every track's registers are in range. -/
def State.tracksInRange (s : State) : Prop := ∀ t : TrackId, s.tracks[t].inRange

/-- Every command of the installed song table is well formed (R131). -/
def State.tableWellFormed (s : State) : Prop :=
  ∀ (t : TrackId) (p : Nat) (e : Entry), s.entryAt t p = some e → e.cmd.WellFormed

/-- The offset names a command of track t's list in the installed song table (R38, R42). -/
def State.hasCommand (s : State) (t : TrackId) (p : Nat) : Prop := (s.entryAt t p).isSome = true

/-- The installed song table is closed (R186): it holds every start, and every offset a command of it falls through to, jumps to, calls or
opens; and every offset of it is a u24 (R132). -/
def State.tableClosed (s : State) : Prop :=
  (∀ (t : TrackId) (x : Off24), s.startTable[t] = some x → s.hasCommand t x.toNat) ∧
    ∀ (t : TrackId) (p : Nat) (e : Entry), s.entryAt t p = some e →
      p < 16777216 ∧ (e.cmd ≠ .fine → e.cmd ≠ .ret → (∀ x, e.cmd ≠ .jump x) → s.hasCommand t (p + e.len)) ∧
        (∀ x, e.cmd = .jump x ∨ e.cmd = .call x → s.hasCommand t x.toNat) ∧
        ∀ (i : TrackId) (x : Off24), e.cmd = .trackOpen i x → s.hasCommand i x.toNat

/-- The offset a stack entry sends its track back to (R244, R246). -/
def StackEntry.back : StackEntry → Nat
  | .call ret => ret
  | .loop body _ => body

/-- Song position is live: a song plays, is paused, or a pass or a tick is under way. Elsewhere the tracks hold what a stop left (R503). -/
def State.inSong (s : State) : Bool :=
  decide (s.mode = .playing) || decide (s.mode = .paused) ||
    match s.phase with
    | .boundary => false
    | .host => false
    | _ => true

/-- R42: while a song is played, the cursor of every track that is not stopped, and every offset its stack sends it back to, names a
command of the track's list, in a closed song table (R186). -/
def State.cursorsNameCommands (s : State) : Prop :=
  s.tableClosed ∧
    (s.inSong = true →
      ∀ t : TrackId, s.tracks[t].stopped = false →
        s.hasCommand t s.tracks[t].cursor ∧ ∀ x ∈ s.tracks[t].stack, s.hasCommand t x.back)

/-- Every command of the installed song table is the one the bytes of `seq_rom` at its offset decode to (R38, R118, R182). -/
def State.tableMatchesRom (s : State) : Prop :=
  ∀ (t : TrackId) (p : Nat) (e : Entry),
    s.entryAt t p = some e → decode (s.seqRom.bytesFrom p maxFormatBytes) = .ok (e.cmd, e.len)

/-- R48: a channel has no owner exactly when it is dead. -/
def State.ownersMatchLife (s : State) : Prop :=
  ∀ c : ChanId, s.channels[c].owner = none ↔ s.channels[c].state = .dead

/-- A live channel has an instrument, of the class of its pool (R440, R452). -/
def State.instrumentsMatchPools (s : State) : Prop :=
  ∀ c : ChanId, s.channels[c].live = true → ∃ i, s.channels[c].inst = some i ∧ i.cls = Profile.reference.classOf c

/-- Every channel may be rendered: a live one has an owner, an instrument, a region inside `sample_rom`, a position inside its region and
a codec that has not passed the loop point without a snapshot (R48, R113, R357, R389). -/
def State.channelsRenderable (s : State) : Prop := ∀ c : ChanId, s.channels[c].renderable s.sampleRom = true

/-- A decoded sample is an s16 (R51). -/
def isS16 (x : Int) : Prop := -32768 ≤ x ∧ x ≤ 32767

/-- The decoder's predictor, and that of its loop snapshot, are s16 (R51, R363). -/
def Codec.inRange (q : Codec) : Prop := isS16 q.pred ∧ ∀ p, q.snap = some p → isS16 p.pred

/-- The ranges of a channel's per-note fields and of its decoder (R49, R51, R328, R329); the byte registers have theirs by their types. -/
def Channel.inRange (ch : Channel) : Prop :=
  ch.key ≤ 127 ∧ ch.velocity ≤ 127 ∧ -1 ≤ ch.durLeft ∧ ch.durLeft < 268435456 ∧ ch.level ≤ 255 ∧ ch.gainL ≤ 127 ∧ ch.gainR ≤ 127 ∧
    ch.step < 4294967296 ∧ ch.codec.inRange

/-- Every channel's per-note fields are in range. -/
def State.channelsInRange (s : State) : Prop := ∀ c : ChanId, s.channels[c].inRange

/-- A host command hands over only a sequence in canonical form. -/
def HostCmd.wf : HostCmd → Bool
  | .loadSong song => song.rom.wf
  | _ => true

/-- Both byte spaces, and those of the songs waiting to be loaded, are in canonical form; the sequence is no longer than `SEQ_SIZE_MAX`
(R100) and the sample space no longer than 2^32 (R105). -/
def State.memoryWf (s : State) : Prop :=
  s.seqRom.wf = true ∧ s.sampleRom.wf = true ∧ s.seqRom.len ≤ Config.seqSizeMax ∧ s.sampleRom.len ≤ sampleSpace ∧ s.hostQueue.all HostCmd.wf = true ∧ s.taken.all HostCmd.wf = true

/-- The phases inside a tick-0 pass or a scheduler tick: a song is being played or sought. -/
def Phase.busy : Phase → Bool
  | .boundary => false
  | .host => false
  | _ => true

/-- The phases that belong to a seek (R285). -/
def Phase.ofSeek : Phase → Bool
  | .pass (.seek _ _) => true
  | .ticks (.seek _ _) => true
  | .tickPre (.seek _ _) => true
  | .tickRun (.seek _ _) => true
  | _ => false

/-- The phases in which the tempo accumulator is being drawn down (R272). -/
def Phase.ofFrameTicks : Phase → Bool
  | .ticks .frame => true
  | .tickPre .frame => true
  | .tickRun .frame => true
  | _ => false

/-- The phases inside a scheduler tick (R273). -/
def Phase.insideTick : Phase → Bool
  | .tickPre _ => true
  | .tickRun _ => true
  | _ => false

/-- R30: `mode` is `NoSong` exactly when no song table is installed; playing and seeking need one. -/
def State.modeMatchesSong (s : State) : Prop :=
  (s.mode = .noSong ↔ s.song = none) ∧ (s.phase.busy = true → s.song ≠ none)

/-- R54: `seeking` is set exactly while a seek replays ticks. -/
def State.seekingMatchesPhase (s : State) : Prop := s.seeking = s.phase.ofSeek

/-- R32: outside the ticks of a frame step the accumulator lies below `TEMPO_THRESH`. -/
def State.tempoStackBelow (s : State) : Prop := s.phase.ofFrameTicks = false → s.tempoStack < Config.tempoThresh

/-- A song table whose longest track cycles rewinds to before its end (R193, R196). -/
def State.loopStartsBeforeEnd (s : State) : Prop := ∀ l, s.loopStartTick = some l → l < s.maxTicks

/-- R33: while the longest track cycles, E does not pass `MaxTicks`, and reaches it only inside a tick or a seek. -/
def State.elapsedWithinSong (s : State) : Prop :=
  s.loopStartTick.isSome = true →
    s.elapsed ≤ s.maxTicks ∧ (s.phase.insideTick = false → s.seeking = false → s.elapsed < s.maxTicks)

/-- The output port shows no quantum yet, or one whole quantum of s16 pairs (R474). -/
def State.outputInRange (s : State) : Prop :=
  (s.pcmOut = [] ∨ s.pcmOut.length = Config.samplesPerFrame) ∧
    ∀ p ∈ s.pcmOut, -32768 ≤ p.1 ∧ p.1 ≤ 32767 ∧ -32768 ≤ p.2 ∧ p.2 ≤ 32767

end Sys2Proof.Machine
end

