-- ==== Sys2Proof/Certificates/Slice0/Obligations.lean ====
section
/-! DEFINITION. The statements for the provers. A statement about a command is an equation for its whole next state, so it says the
command's result, its frame and that it completes; `s.fetch = some e` says that the executing track's cursor names a command, whose
byte length is `e.len`. A docstring that names a log entry or "the spec's inference" says which clause is no rule of its own. -/

section

open Sys2Proof Sys2Proof.Machine

/-! ## Encoding -/

/-- R130, R132, R133, R140: the decoder reads back every well-formed command from its bytes, with its length, whatever follows. The
encoder is the model's own spelling of R140's formats (shortest variable-length form). -/
def Obligations.decode_encode : Prop :=
  ∀ (i : Instr) (rest : List Byte), i.WellFormed → decode (encode i ++ rest) = .ok (i, (encode i).length)

/-- R130, R131, R132, R133, R137: whatever the bytes, the control map, the byte mode and the strictness, a command decoded is well formed and
takes at least one byte and no more than there are; by the reference map it takes at most 7. What a map whose formats do not fit the kinds
spells, and the bound of 13 bytes on it, are log 25. -/
def Obligations.decode_answers_well_formed : Prop :=
  ∀ (D : DecodeProfile) (rs : Option Byte) (bs : List Byte) (d : Decoded), decodeAt D rs bs = .ok d →
    d.cmd.WellFormed ∧ 1 ≤ d.len ∧ d.len ≤ bs.length ∧ d.len ≤ 13 ∧ (D.ctrlMap = referenceCtrlMap → d.len ≤ 7)

/-- R132, R137, R183: a command cut short is `OutOfBounds`; a key operand of 128 or more and a track operand of 16 or more are
`BadOperand`, whatever follows, a missing later field included: that order of the checks is log 8, read from R498. -/
def Obligations.decode_refuses_bad_operands : Prop :=
  (∀ (i : Instr) (n : Nat), i.WellFormed → n < (encode i).length → decode ((encode i).take n) = .error .outOfBounds) ∧
    (∀ (k : Byte) (rest : List Byte), 128 ≤ k.toNat →
      decode (0xF0#8 :: k :: rest) = .error .badOperand ∧ decode (0xF1#8 :: k :: rest) = .error .badOperand ∧
        decode (0xF2#8 :: k :: rest) = .error .badOperand) ∧
    ∀ (t : Byte) (rest : List Byte), 16 ≤ t.toNat → decode (0x93#8 :: t :: rest) = .error .badOperand

/-- The value of 7-bit groups, most significant first (R133). -/
def Sys2Proof.groupsValue (groups : List Nat) : Nat := groups.foldl (fun v g => v * 128 + g) 0

/-- R107, R132, R133: the value of each fixed-width field, little-endian, `s8` and `s16` in two's complement, whatever map's format names it;
a signed byte read for a variable operation's s16 operand keeps its sign. Up to three continuation groups and a last one give the value of all
the groups, below 2^28, leading zero groups included; four continuation groups are `BadVarLen`; running out of bytes is `OutOfBounds`. -/
def Obligations.operand_fields_read : Prop :=
  (∀ (b0 b1 b2 : Byte) (rest : List Byte) (k : Int → List Byte → DecodeResult (Int × List Byte)),
    let half : Nat := b0.toNat + 256 * b1.toNat
    readField .u8 (b0 :: rest) k = k b0.toNat rest ∧
      readField .s8 (b0 :: rest) k = k (if b0.toNat < 128 then (b0.toNat : Int) else (b0.toNat : Int) - 256) rest ∧
      readField .u16 (b0 :: b1 :: rest) k = k half rest ∧
      readField .s16 (b0 :: b1 :: rest) k = k (if half < 32768 then (half : Int) else (half : Int) - 65536) rest ∧
      readField .u24 (b0 :: b1 :: b2 :: rest) k = k ((half + 65536 * b2.toNat : Nat) : Int) rest ∧
      (∀ f : Field, readField f [] k = .error .outOfBounds) ∧
      (∀ f : Field, f = .u16 ∨ f = .s16 ∨ f = .u24 → readField f [b0] k = .error .outOfBounds) ∧
      readField .u24 [b0, b1] k = .error .outOfBounds) ∧
    (∀ (D : DecodeProfile) (op v x : Byte) (rest : List Byte), 128 ≤ op.toNat → D.strictVarops = false →
      D.ctrlMap op = some ⟨.varSet, [.u8, .s8]⟩ →
        ∃ imm : Half, decodeWith D (op :: v :: x :: rest) = .ok (.varSet v imm, 3) ∧ imm.toInt = x.toInt) ∧
    ∀ (groups : List Nat) (last : Nat) (rest : List Byte), (∀ g ∈ groups, g < 128) → last < 128 →
      (groups.length ≤ 3 →
        vlqLoop 4 0 (groups.map (fun g => BitVec.ofNat 8 (128 + g)) ++ BitVec.ofNat 8 last :: rest) =
            .ok (groupsValue (groups ++ [last]), rest) ∧
          groupsValue (groups ++ [last]) < 2 ^ 28 ∧
          vlqLoop 4 0 (groups.map fun g => BitVec.ofNat 8 (128 + g)) = .error .outOfBounds) ∧
        (groups.length = 4 → vlqLoop 4 0 (groups.map (fun g => BitVec.ofNat 8 (128 + g)) ++ rest) = .error .badVarLen)

/-- R144, the spec's inference: its worked encodings decode to their commands, and the commands encode to them. -/
def Obligations.worked_encodings : Prop :=
  ∀ p ∈ ([([0x80#8, 0x60#8], Instr.rest 96), ([0x80#8, 0x81#8, 0x48#8], .rest 200), ([0x3C#8, 0x64#8, 0x30#8], .note 60 100#8 48),
      ([0xF0#8, 0x3C#8, 0x64#8], .tie 60 100#8), ([0xF1#8, 0x3C#8], .eot 60),
      ([0x94#8, 0x10#8, 0x00#8, 0x00#8], .jump 0x000010#24), ([0xE1#8, 0x96#8, 0x00#8], .tempo 150#16),
      ([0x93#8, 0x01#8, 0x23#8, 0x01#8, 0x00#8], .trackOpen 1 0x000123#24), ([0xFF#8], .fine), ([0xC4#8, 0xFE#8], .bend (-2#8))] :
        List (List Byte × Instr)),
    decode p.1 = .ok (p.2, p.1.length) ∧ encode p.2 = p.1

/-- The control bytes to which the reference profile assigns nothing, as R138 lists them. -/
def Sys2Proof.unassignedControl (b : Nat) : Prop :=
  (0x82 ≤ b ∧ b ≤ 0x92) ∨ (0x96 ≤ b ∧ b ≤ 0xAF) ∨ b = 0xBE ∨ b = 0xBF ∨ b = 0xC2 ∨ (0xC7 ≤ b ∧ b ≤ 0xC9) ∨ b = 0xCE ∨ b = 0xCF ∨
    (0xD6 ≤ b ∧ b ≤ 0xDF) ∨ (0xE2 ≤ b ∧ b ≤ 0xEF) ∨ (0xF3 ≤ b ∧ b ≤ 0xFB) ∨ b = 0xFE

/-- R138: the control bytes that R138 lists, and no others, spell no command whatever follows them. -/
def Obligations.unassigned_bytes_unknown : Prop :=
  ∀ op : Byte, 128 ≤ op.toNat →
    (unassignedControl op.toNat ↔ ∀ rest : List Byte, decode (op :: rest) = .error .unknownOpcode)

/-- R135, R139, R182, R184: in the running-status profile the operand bytes of a control command, when their first byte is below 0x80, decode to
the command under its own control byte, with the length of the operand bytes alone; with no running status, or one that has no operand,
such a byte is `InvalidRunningStatus`. A control byte whose format has an operand field becomes the running status; `loopend`, `ret` and
`fine`, and every command of a byte below 0x80, leave it as it was; a running-status command records the byte it was decoded with. -/
def Obligations.running_status_round_trip : Prop :=
  (∀ (i : Instr) (b : Byte) (tail rest : List Byte), i.WellFormed → 128 ≤ (opcodeOf i).toNat → operandBytes i = b :: tail →
    b.toNat < 128 →
      decodeAt { DecodeProfile.reference with lowByteMode := .runningStatus } (some (opcodeOf i)) (operandBytes i ++ rest) =
        .ok ⟨i, (operandBytes i).length, some (opcodeOf i), some (opcodeOf i)⟩) ∧
    (∀ (b : Byte) (rest : List Byte) (rs : Option Byte), b.toNat < 128 →
      rs = none ∨ rs = some 0xFC#8 ∨ rs = some 0xFD#8 ∨ rs = some 0xFF#8 →
        decodeAt { DecodeProfile.reference with lowByteMode := .runningStatus } rs (b :: rest) = .error .invalidRunningStatus) ∧
    (∀ (mode : LowByteMode) (rs : Option Byte) (i : Instr) (rest : List Byte), i.WellFormed → 128 ≤ (opcodeOf i).toNat →
      decodeAt { DecodeProfile.reference with lowByteMode := mode } rs (encode i ++ rest) =
        .ok ⟨i, (encode i).length, if i = .loopend ∨ i = .ret ∨ i = .fine then rs else some (opcodeOf i), none⟩) ∧
    ∀ (D : DecodeProfile) (rs : Option Byte) (b : Byte) (rest : List Byte) (d : Decoded), decodeAt D rs (b :: rest) = .ok d →
      (b.toNat < 128 → d.rsNext = rs ∧ d.viaRs = if D.lowByteMode = .runningStatus then rs else none) ∧
        ∀ e : CtrlEntry, 128 ≤ b.toNat → D.ctrlMap b = some e →
          d.rsNext = (if e.format = [] then rs else some b) ∧ d.viaRs = none

/-! ## Fetching -/

/-- R220, R271, R278: where the bytes at the executing track's cursor decode to a command and the song table agrees with the bytes, the
step of a track that may run is that command's meaning, nothing added, and the table's length is the decoded length. That one step of the
machine is one command of a pass or a tick is log 2. -/
def Obligations.step_runs_decoded_command : Prop :=
  ∀ (s : State) (i : Instr) (n : Nat), s.tableMatchesRom → (∃ e, s.fetch = some e) →
    decode (s.seqRom.bytesFrom s.track.cursor maxFormatBytes) = .ok (i, n) → i.WellFormed → s.track.runnable = true →
    ((∃ job, s.phase = .pass job) ∨ ∃ job, s.phase = .tickRun job) →
      step s = exec i s ∧ ∃ e, s.fetch = some e ∧ e.cmd = i ∧ e.len = n

/-- Log 3 (the model's placing of one command): bytes placed where the next step fetches are decoded and run by it. -/
def Obligations.placed_bytes_run_next : Prop :=
  (∀ (s : State) (bs : List Byte) (i : Instr) (n : Nat), decode bs = .ok (i, n) →
    step (placeBytes s bs) = exec i (placeBytes s bs) ∧ (placeBytes s bs).fetch = some ⟨i, n, []⟩) ∧
    ∀ (s : State) (nbits w : Nat) (i : Instr), decodeTableWord nbits w = some i →
      step (s.withFetchWord nbits w) = exec i (s.withFetchWord nbits w)

/-! ## The commands: result, frame and completion -/

/-- R222, R224 to R227: `rest` sets the rest counter; `voice`, `vol`, `expr` and `pan` write one register each, clamped as their rules say;
each advances the cursor and changes nothing else. -/
def Obligations.rest_voice_volume_expression_pan_result : Prop :=
  ∀ (s : State) (e : Entry) (n v : Nat) (x : Byte), s.fetch = some e →
    exec (.rest n) s = .next (s.setTrack s.cur { s.track with rest := n, cursor := s.track.cursor + e.len }) ∧
      exec (.voice v) s = .next (s.setTrack s.cur { s.track with voice := v, cursor := s.track.cursor + e.len }) ∧
      exec (.vol x) s =
        .next (s.setTrack s.cur { s.track with volume := min x.toNat 127, cursor := s.track.cursor + e.len }) ∧
      exec (.expr x) s =
        .next (s.setTrack s.cur { s.track with expression := min x.toNat 127, cursor := s.track.cursor + e.len }) ∧
      exec (.pan x) s =
        .next (s.setTrack s.cur
          { s.track with pan := max (-64) (min 63 ((x.toNat : Int) - 64)), cursor := s.track.cursor + e.len })

/-- R228 to R235: `bend`, `bendrange`, `transpose` and `prio` write one register each, the s8 operands being read as signed; `attack`,
`decay`, `sustain` and `release` set one override each, and live channels keep their constants. -/
def Obligations.pitch_priority_envelope_result : Prop :=
  ∀ (s : State) (e : Entry) (x : Byte), s.fetch = some e →
    exec (.bend x) s = .next (s.setTrack s.cur { s.track with pitchBend := x, cursor := s.track.cursor + e.len }) ∧
      exec (.bendrange x) s = .next (s.setTrack s.cur { s.track with bendRange := x, cursor := s.track.cursor + e.len }) ∧
      exec (.transpose x) s = .next (s.setTrack s.cur { s.track with transpose := x, cursor := s.track.cursor + e.len }) ∧
      exec (.prio x) s = .next (s.setTrack s.cur { s.track with priority := x, cursor := s.track.cursor + e.len }) ∧
      exec (.attack x) s = .next (s.setTrack s.cur { s.track with atkOvr := some x, cursor := s.track.cursor + e.len }) ∧
      exec (.decay x) s = .next (s.setTrack s.cur { s.track with decOvr := some x, cursor := s.track.cursor + e.len }) ∧
      exec (.sustain x) s = .next (s.setTrack s.cur { s.track with susOvr := some x, cursor := s.track.cursor + e.len }) ∧
      exec (.release x) s = .next (s.setTrack s.cur { s.track with relOvr := some x, cursor := s.track.cursor + e.len })

/-- R236 to R241: the LFO commands write one register each, a target of 3 to 255 being `Off`; `tempo` writes the engine register and
advances the cursor, and ticks already due are not touched. -/
def Obligations.lfo_register_and_tempo_result : Prop :=
  ∀ (s : State) (e : Entry) (x : Byte) (y : Half), s.fetch = some e →
    exec (.lfodepth x) s = .next (s.setTrack s.cur { s.track with lfoDepth := x, cursor := s.track.cursor + e.len }) ∧
      exec (.lfospeed x) s = .next (s.setTrack s.cur { s.track with lfoSpeed := x, cursor := s.track.cursor + e.len }) ∧
      exec (.lforange x) s = .next (s.setTrack s.cur { s.track with lfoRange := x, cursor := s.track.cursor + e.len }) ∧
      exec (.lfodelay y) s = .next (s.setTrack s.cur { s.track with lfoDelay := y, cursor := s.track.cursor + e.len }) ∧
      exec (.lfotarget x) s =
        .next (s.setTrack s.cur
          { s.track with
            lfoTarget := if x = 0#8 then .pitch else if x = 1#8 then .volume else if x = 2#8 then .pan else .off
            cursor := s.track.cursor + e.len }) ∧
      exec (.tempo y) s = .next { s.setTrack s.cur { s.track with cursor := s.track.cursor + e.len } with tempo := y }

/-- The ranges of an instrument record that R104 and R106 give; the other fields have theirs by their types. -/
def Sys2Proof.Machine.recordInRange (r : Instrument) : Prop :=
  r.baseNote ≤ 127 ∧ (∀ k, r.fixedKey = some k → k ≤ 127) ∧
    ∀ g, r.payload = .pcm g → g.addr < 2 ^ 32 ∧ 1 ≤ g.length ∧ g.length ≤ 2 ^ 31 ∧ 1 ≤ g.rate ∧ g.rate ≤ 2 ^ 20

/-- R104, R105, R106, R113, R221: a note-on (`note`, `notec`, `tie`) restarts the LFO and advances the cursor in every case; a bank miss, a
region outside `sample_rom` and a full pool change nothing else; otherwise `ChannelInit` runs on the channel `Allocate` returns, with the clamped
key, velocity and duration, and every other channel stays as it was. The bank answers the record it holds for a voice below 2^28 and a key
below 128, if the record is in range; a region lies inside when its bytes end at `SAMPLE_LEN` or before. That the port is a list whose first
entry for a pair counts is log 5. -/
def Obligations.note_on_result : Prop :=
  (∀ (s : State) (e : Entry) (i : Instr) (key : Nat) (velocity : Byte) (dur : Int), s.fetch = some e →
    ((i = .tie key velocity ∧ dur = -1) ∨
      ∃ n : Nat, (i = .note key velocity n ∨ i = .notec key velocity n) ∧ dur = ((max n 1 : Nat) : Int)) →
    let x : Track := { s.track with lfoPhase := 0#8, lfoDelayCount := s.track.lfoDelay, cursor := s.track.cursor + e.len }
    let k : Nat := (max 0 (min 127 ((key : Int) + s.track.transpose.toInt))).toNat
    (bankLookup s.bank s.track.voice k = none → exec i s = .next (s.setTrack s.cur x)) ∧
      ∀ r : Instrument, bankLookup s.bank s.track.voice k = some r →
        (r.fits s.sampleRom = false → exec i s = .next (s.setTrack s.cur x)) ∧
          (r.fits s.sampleRom = true → allocate s r.cls s.cur = none → exec i s = .next (s.setTrack s.cur x)) ∧
          ∀ c : ChanId, r.fits s.sampleRom = true → allocate s r.cls s.cur = some c →
            exec i s =
              .next ((s.setTrack s.cur x).setChannel c
                (channelInit Profile.reference s.sampleRom s.cur x k (min velocity.toNat 127) dur r s.channels[c]))) ∧
    (∀ (bank : List BankEntry) (voice key : Nat) (r : Instrument),
      bankLookup bank voice key = some r ↔
        voice < 2 ^ 28 ∧ key < 128 ∧ (bank.find? fun b => b.voice = voice ∧ b.key = key).map BankEntry.inst = some r ∧
          recordInRange r) ∧
    ∀ (rom : Memory) (r : Instrument) (g : Region),
      (r.payload = .pcm g →
        (r.fits rom = true ↔
          g.addr + (match g.format with | .pcm8 => g.length | .pcm16 => 2 * g.length | .adpcm => 4 + (g.length + 1) / 2) ≤
            min rom.len (2 ^ 32))) ∧
        (r.cls ≠ .pcm → r.fits rom = true)

/-- R223, R249: `eot` releases exactly the track's sounding ties of the transposed key, keeps every level, and advances the cursor; `fine` stops
the track, releases its sounding channels, and leaves its cursor and everything else. -/
def Obligations.end_of_tie_and_finish_result : Prop :=
  (∀ (s : State) (e : Entry) (key : Nat), s.fetch = some e →
    exec (.eot key) s =
      .next
        ((s.mapChannels fun ch =>
            if ch.owner = some s.cur ∧ (ch.key : Int) = max 0 (min 127 ((key : Int) + s.track.transpose.toInt)) ∧ ch.durLeft = -1 ∧
                ch.state ≠ .releasing ∧ ch.state ≠ .dead then
              { ch with state := .releasing }
            else ch).setTrack
          s.cur { s.track with cursor := s.track.cursor + e.len })) ∧
    ∀ s : State,
      exec .fine s =
        .next
          ((s.setTrack s.cur { s.track with stopped := true }).mapChannels fun ch =>
            if ch.owner = some s.cur ∧ ch.state ≠ .releasing ∧ ch.state ≠ .dead then { ch with state := .releasing } else ch)

/-- R242 to R246: `jump` moves the cursor and leaves the stack; `call` pushes the offset after itself and `ret` pops it; `loop` pushes the body
offset and the count, and `loopend` repeats an endless loop, ends a last pass and counts down any other. A full stack stops `call` and
`loop`, and a top of the other kind, or none, stops `ret` and `loopend`: that the error stops the machine as a fault is log 6. -/
def Obligations.jump_call_return_loop_result : Prop :=
  (∀ (s : State) (x : Off24), exec (.jump x) s = .next (s.setTrack s.cur { s.track with cursor := x.toNat })) ∧
    (∀ (s : State) (e : Entry) (x : Off24), s.fetch = some e → s.track.stack.length < Config.stackDepth →
      exec (.call x) s =
        .next (s.setTrack s.cur
          { s.track with stack := .call (s.track.cursor + e.len) :: s.track.stack, cursor := x.toNat })) ∧
    (∀ (s : State) (x : Off24), s.track.stack.length = Config.stackDepth → exec (.call x) s = .fault .callStackOverflow) ∧
    (∀ (s : State) (r : Nat) (rest : List StackEntry), s.track.stack = .call r :: rest →
      exec .ret s = .next (s.setTrack s.cur { s.track with stack := rest, cursor := r })) ∧
    (∀ s : State, (∀ (r : Nat) (rest : List StackEntry), s.track.stack ≠ .call r :: rest) → exec .ret s = .fault .returnUnderflow) ∧
    (∀ (s : State) (e : Entry) (n : Byte), s.fetch = some e → s.track.stack.length < Config.stackDepth →
      exec (.loop n) s =
        .next (s.setTrack s.cur
          { s.track with
            stack := .loop (s.track.cursor + e.len) n.toNat :: s.track.stack
            cursor := s.track.cursor + e.len })) ∧
    (∀ (s : State) (n : Byte), s.track.stack.length = Config.stackDepth → exec (.loop n) s = .fault .callStackOverflow) ∧
    (∀ (s : State) (e : Entry) (b r : Nat) (rest : List StackEntry), s.fetch = some e → s.track.stack = .loop b r :: rest →
      exec .loopend s =
        .next (s.setTrack s.cur
          (if r = 0 then { s.track with cursor := b }
          else if r = 1 then { s.track with stack := rest, cursor := s.track.cursor + e.len }
          else { s.track with stack := .loop b (r - 1) :: rest, cursor := b }))) ∧
    ∀ s : State, (∀ (b r : Nat) (rest : List StackEntry), s.track.stack ≠ .loop b r :: rest) → exec .loopend s = .fault .badLoopEnd

/-- R247: `open` starts a track that was never opened, at the target and with every other register at its TrackReset value (log 26), and has
no effect on one already opened; the executing track's cursor advances; nothing else changes. -/
def Obligations.track_open_result : Prop :=
  ∀ (s : State) (e : Entry) (i : TrackId) (x : Off24), s.fetch = some e →
    ∃ t : State, exec (.trackOpen i x) s = .next t ∧ t = { s with tracks := t.tracks } ∧
      ∀ u : TrackId,
        let y : Track :=
          if u = i ∧ s.tracks[u].opened = false then
            { Track.reset none with opened := true, stopped := false, cursor := x.toNat }
          else s.tracks[u]
        t.tracks[u] = if u = s.cur then { y with cursor := s.track.cursor + e.len } else y

/-- R248: each of the fourteen variable operations only advances the cursor; with STRICT_VAROPS decoding one is `Unsupported`. -/
def Obligations.var_op_result : Prop :=
  (∀ (s : State) (e : Entry) (v : Byte) (imm : Half) (i : Instr), s.fetch = some e →
    i ∈ [Instr.varSet v imm, .varAdd v imm, .varSub v imm, .varMul v imm, .varDiv v imm, .varShift v imm, .varRand v imm,
      .varReserved v imm, .varEq v imm, .varGe v imm, .varGt v imm, .varLe v imm, .varLt v imm, .varNe v imm] →
      exec i s = .next (s.setTrack s.cur { s.track with cursor := s.track.cursor + e.len })) ∧
    ∀ (op v lo hi : Byte) (rest : List Byte), 0xB0 ≤ op.toNat → op.toNat ≤ 0xBD →
      decodeControl { DecodeProfile.reference with strictVarops := true } op (v :: lo :: hi :: rest) = .error .unsupported

/-! ## All commands -/

/-- R220, R243 to R246, R250: every command that is fetched completes, but for the four errors of the stack commands. That such an error
stops the machine with a fault is log 6, and that a stack of more entries than its depth counts as full is log 20. -/
def Obligations.command_completes_or_stack_error : Prop :=
  ∀ (i : Instr) (s : State) (e : Entry), s.fetch = some e →
    (∃ t, exec i s = .next t) ∨
      (exec i s = .fault .callStackOverflow ∧ Config.stackDepth ≤ s.track.stack.length ∧
        ((∃ x, i = .call x) ∨ ∃ n, i = .loop n)) ∨
      (exec i s = .fault .returnUnderflow ∧ i = .ret ∧ ∀ r rest, s.track.stack ≠ .call r :: rest) ∨
      (exec i s = .fault .badLoopEnd ∧ i = .loopend ∧ ∀ b r rest, s.track.stack ≠ .loop b r :: rest)

/-- R114, R514, R515: no command writes a byte of either space, the bank, the song table, the mode or any engine register but `tempo`, which
only `tempo` writes. -/
def Obligations.command_frame : Prop :=
  ∀ (i : Instr) (s t : State), exec i s = .next t →
    (∀ a : Nat, t.seqRom.read a = s.seqRom.read a ∧ t.sampleRom.read a = s.sampleRom.read a) ∧
      t = { s with tracks := t.tracks, channels := t.channels, tempo := t.tempo } ∧
      ((∀ x, i ≠ .tempo x) → t.tempo = s.tempo)

/-- R117, R221, R223, R247, R249: of the other tracks a command changes only an unopened one that it opens; of the channels, a release
enters `Releasing` on channels of its own track, a note-on claims at most one channel, and no other command changes any. -/
def Obligations.command_track_and_channel_frame : Prop :=
  ∀ (i : Instr) (s t : State), exec i s = .next t →
    (∀ u : TrackId, u ≠ s.cur →
      t.tracks[u] = s.tracks[u] ∨
        ∃ x, i = .trackOpen u x ∧ s.tracks[u].opened = false ∧
          t.tracks[u] = { Track.reset none with opened := true, stopped := false, cursor := x.toNat }) ∧
      (∀ c : ChanId,
        t.channels[c] = s.channels[c] ∨
          ((i = .fine ∨ ∃ k, i = .eot k) ∧ s.channels[c].owner = some s.cur ∧ s.channels[c].sounding = true ∧
            t.channels[c] = { s.channels[c] with state := .releasing }) ∨
          ((∃ k v, i = .tie k v ∨ ∃ d, i = .note k v d ∨ i = .notec k v d) ∧ t.channels[c].owner = some s.cur ∧
            t.channels[c].state = .initializing)) ∧
      ((∃ k v, i = .tie k v ∨ ∃ d, i = .note k v d ∨ i = .notec k v d) →
        ∀ c d : ChanId, t.channels[c] ≠ s.channels[c] → t.channels[d] ≠ s.channels[d] → c = d)

/-! ## Channels: initialisation and envelope -/

/-- R452, R311, R352: `ChannelInit` writes every per-note and render field, takes an override where the track has one, reads an ADPCM header, and
leaves the new note at level 0 with both gains 0 and its own step. -/
def Obligations.channel_init_fields : Prop :=
  ∀ (rom : Memory) (o : TrackId) (t : Track) (key velocity : Nat) (dur : Int) (i : Instrument) (ch : Channel),
    let q := channelInit Profile.reference rom o t key velocity dur i ch
    q.owner = some o ∧ q.state = .initializing ∧ q.key = key ∧ q.velocity = velocity ∧ q.durLeft = dur ∧ q.inst = some i ∧
      q.a = t.atkOvr.getD i.a ∧ q.d = t.decOvr.getD i.d ∧ q.s = t.susOvr.getD i.s ∧ q.r = t.relOvr.getD i.r ∧ q.level = 0 ∧
      q.pos = 0 ∧ q.frac = 0#16 ∧ q.phase = 0#32 ∧ q.lfsr = 0x7FFF#15 ∧ q.gainL = 0 ∧ q.gainR = 0 ∧
      q.step = Profile.reference.freqStep i.cls i (centsOf t i key) ∧
      ∀ g : Region, i.payload = .pcm g → g.format = .adpcm →
        q.codec.pred = sext16 (rom.byteNat g.addr + 256 * rom.byteNat (g.addr + 1)) ∧
          q.codec.idx.val = min (rom.byteNat (g.addr + 2)) 88 ∧ q.codec.nib = 0 ∧ q.codec.snap = none

/-- R312 to R317, R319, R320: one tick of a channel of any class is the duration countdown and then the step of the state after it. That a
sounding channel of duration 0 is left alone by the countdown is log 17. -/
def Obligations.envelope_step_laws : Prop :=
  ∀ (c : VoiceClass) (ch : Channel),
    let law := Profile.reference.envLaw c
    ch.tick law = ch.countdown.envStep law ∧
      (ch.countdown =
        if 0 < ch.durLeft ∧ ch.state ≠ .releasing ∧ ch.state ≠ .dead then
          { ch with durLeft := ch.durLeft - 1, state := if ch.durLeft = 1 then .releasing else ch.state }
        else ch) ∧
      (ch.state = .initializing ∨ ch.state = .attack →
        (ch.envStep law).level = min 255 (ch.level + max ch.a.toNat 1) ∧
          ch.envStep law = { ch with level := (ch.envStep law).level, state := if (ch.envStep law).level = 255 then .decay else .attack }) ∧
      (ch.state = .decay →
        ch.envStep law =
          if ch.level * ch.d.toNat / 256 ≤ ch.s.toNat then { ch with level := ch.s.toNat, state := .sustain }
          else { ch with level := ch.level * ch.d.toNat / 256 }) ∧
      (ch.state = .sustain → ch.envStep law = ch) ∧
      (ch.state = .releasing →
        ch.envStep law =
          if ch.level * ch.r.toNat / 256 = 0 then { ch with level := 0, state := .dead, owner := none }
          else { ch with level := ch.level * ch.r.toNat / 256 })

/-- R312, R314: the attack of a tie ends, at level 255 in `Decay`, in at most 255 ticks, whatever its constant and its level. -/
def Obligations.attack_ends : Prop :=
  ∀ (c : VoiceClass) (ch : Channel), ch.state = .initializing ∨ ch.state = .attack → ch.durLeft = -1 →
    ∃ n, n ≤ 255 ∧ ((Channel.tick (Profile.reference.envLaw c))^[n] ch).state = .decay ∧ ((Channel.tick (Profile.reference.envLaw c))^[n] ch).level = 255

/-- R317, its bound being the spec's inference: each tick of a releasing channel lowers its level, and it dies, unowned, at most level + 1
ticks after the release begins; in one tick when its constant or its level is 0. -/
def Obligations.release_dies : Prop :=
  ∀ (c : VoiceClass) (ch : Channel), ch.state = .releasing →
    (0 < ch.level → (ch.tick (Profile.reference.envLaw c)).level < ch.level) ∧
      (ch.r = 0#8 ∨ ch.level = 0 → (ch.tick (Profile.reference.envLaw c)).state = .dead) ∧
      ∃ n, 1 ≤ n ∧ n ≤ ch.level + 1 ∧ ((Channel.tick (Profile.reference.envLaw c))^[n] ch).state = .dead ∧ ((Channel.tick (Profile.reference.envLaw c))^[n] ch).owner = none

/-- R313, R319 (the spec's inference): a note of duration d sounds for d - 1 ticks and starts releasing in the d-th; a tie never counts
down and goes on sounding. -/
def Obligations.duration_releases : Prop :=
  ∀ (c : VoiceClass) (ch : Channel), ch.sounding = true →
    (∀ d : Nat, 0 < d → ch.durLeft = (d : Int) →
      (∀ n : Nat, n < d → ((Channel.tick (Profile.reference.envLaw c))^[n] ch).sounding = true ∧ ((Channel.tick (Profile.reference.envLaw c))^[n] ch).durLeft = (d : Int) - n) ∧
        ((Channel.tick (Profile.reference.envLaw c))^[d - 1] ch).countdown.state = .releasing ∧ ((Channel.tick (Profile.reference.envLaw c))^[d] ch).sounding = false) ∧
      (ch.durLeft = -1 → ∀ n : Nat, ((Channel.tick (Profile.reference.envLaw c))^[n] ch).sounding = true ∧ ((Channel.tick (Profile.reference.envLaw c))^[n] ch).durLeft = -1)

/-! ## Allocation -/

/-- R441 to R443: `Allocate` takes the lowest idle channel of the class, and with none idle the lowest releasing one, whoever owns it. -/
def Obligations.allocate_idle_then_releasing : Prop :=
  ∀ (s : State) (c : VoiceClass) (t : TrackId) (i : ChanId), Profile.reference.classOf i = c →
    (s.channels[i].state = .dead → (∀ j : ChanId, j < i → Profile.reference.classOf j = c → s.channels[j].state ≠ .dead) →
        allocate s c t = some i) ∧
      (s.channels[i].state = .releasing → (∀ j : ChanId, Profile.reference.classOf j = c → s.channels[j].state ≠ .dead) →
        (∀ j : ChanId, j < i → Profile.reference.classOf j = c → s.channels[j].state ≠ .releasing) → allocate s c t = some i)

/-- R444, R445, R446, R458: with every channel of the class sounding, the candidate is the one of the least owner priority, then of the
highest owner index, then of the lowest channel index; it is taken from a lower priority, or an equal one of no lower index. -/
def Obligations.allocate_steals_candidate : Prop :=
  ∀ (s : State) (c : VoiceClass) (t : TrackId) (v : ChanId) (o : TrackId),
    (∀ j : ChanId, Profile.reference.classOf j = c → s.channels[j].state ≠ .dead ∧ s.channels[j].state ≠ .releasing) →
    Profile.reference.classOf v = c → s.channels[v].owner = some o →
    (∀ (j : ChanId) (p : TrackId), Profile.reference.classOf j = c → s.channels[j].owner = some p →
      s.tracks[o].priority.toNat < s.tracks[p].priority.toNat ∨
        (s.tracks[o].priority = s.tracks[p].priority ∧ (p < o ∨ (p = o ∧ v ≤ j)))) →
      allocate s c t =
        if s.tracks[o].priority.toNat < s.tracks[t].priority.toNat ∨ (s.tracks[o].priority = s.tracks[t].priority ∧ t ≤ o) then some v
        else none

/-- R46, R440, R446, R447 (the spec's inference): the channels are numbered PCM first, then Square, Wave and Noise, each of one class; a channel
that `Allocate` returns is of the class asked for and is idle, releasing, or taken from an owner of no higher priority; it returns none
exactly when every channel of the class sounds for an owner of higher priority, or of equal priority and lower index. -/
def Obligations.allocate_takes_or_drops : Prop :=
  (∀ (P : Profile) (c : P.Chan),
    (P.classOf c = .pcm ↔ c.val < P.numPcm) ∧
      (P.classOf c = .square ↔ P.numPcm ≤ c.val ∧ c.val < P.numPcm + P.numSquare) ∧
      (P.classOf c = .wave ↔ P.numPcm + P.numSquare ≤ c.val ∧ c.val < P.numPcm + P.numSquare + P.numWave) ∧
      (P.classOf c = .noise ↔
        P.numPcm + P.numSquare + P.numWave ≤ c.val ∧ c.val < P.numPcm + P.numSquare + P.numWave + P.numNoise)) ∧
    (∀ c : ChanId,
      c.val < 11 ∧
        Profile.reference.classOf c =
          if c.val ≤ 7 then .pcm else if c.val = 8 then .square else if c.val = 9 then .wave else .noise) ∧
    ∀ (s : State) (c : VoiceClass) (t : TrackId),
      (∀ v : ChanId, allocate s c t = some v →
        Profile.reference.classOf v = c ∧
          (s.channels[v].state = .dead ∨ s.channels[v].state = .releasing ∨
            ∃ o, s.channels[v].owner = some o ∧ s.tracks[o].priority.toNat ≤ s.tracks[t].priority.toNat)) ∧
        (allocate s c t = none ↔
          ∀ j : ChanId, Profile.reference.classOf j = c →
            s.channels[j].state ≠ .dead ∧ s.channels[j].state ≠ .releasing ∧
              ∀ o, s.channels[j].owner = some o →
                s.tracks[t].priority.toNat < s.tracks[o].priority.toNat ∨ (s.tracks[t].priority = s.tracks[o].priority ∧ o < t))

/-! ## Invariants that every step keeps -/

/-- R48 (the spec's inference): a channel has no owner exactly when it is dead, after every step of a state in which this holds. -/
def Obligations.step_keeps_owners : Prop :=
  ∀ s t : State, s.ownersMatchLife → step s = .next t → t.ownersMatchLife

/-- R42, R186 (the spec's inferences): while a song is played, the cursor of every track that is not stopped, and every offset on its stack,
names a command of the track's list; every load installs a closed table; and from such a state no step stops with `noCommand` (log 16). -/
def Obligations.step_keeps_cursors_on_commands : Prop :=
  ∀ s : State, s.cursorsNameCommands → step s ≠ .fault .noCommand ∧ ∀ t : State, step s = .next t → t.cursorsNameCommands

/-- R41 to R44, R131: every step keeps every track's registers in their ranges, the cursor and the offsets on the stack being u24 and a
loop's count u8; an unopened track stopped; the stack within its depth; and every command of the song table well formed. -/
def Obligations.step_keeps_track_ranges : Prop :=
  ∀ s t : State, s.tracksInRange → s.tableWellFormed → s.cursorsNameCommands → step s = .next t →
    t.tracksInRange ∧ t.tableWellFormed

/-- R38, R114, R118, R182: every step keeps the song table equal to what the bytes of `seq_rom` decode to. -/
def Obligations.step_keeps_table_matching_rom : Prop :=
  ∀ s t : State, s.tableMatchesRom → step s = .next t → t.tableMatchesRom

/-- Every step keeps the byte spaces in their canonical form (the model's own, log 1), the sequence within `SEQ_SIZE_MAX` (R100), the sample
space within 2^32 bytes (R105), and the output port at whole quanta of s16 pairs (R474). -/
def Obligations.step_keeps_memory_and_output_form : Prop :=
  ∀ s t : State, step s = .next t → (s.memoryWf → t.memoryWf) ∧ (s.outputInRange → t.outputInRange)

/-- R30, R32, R54: every step keeps `mode` at `NoSong` exactly when no song is installed, `tempoStack` below `TEMPO_THRESH` outside the
ticks of a frame step, and `seeking` set exactly during a seek. -/
def Obligations.step_keeps_control_state : Prop :=
  ∀ s t : State, step s = .next t →
    (s.modeMatchesSong → t.modeMatchesSong) ∧ (s.tempoStackBelow → t.tempoStackBelow) ∧
      (s.seekingMatchesPhase → t.seekingMatchesPhase)

/-- R33, R193, R196, R283, R285: while the longest track cycles, `E` never exceeds `MaxTicks` and rests below it between ticks; every
load installs a rewind tick before the end. -/
def Obligations.step_keeps_elapsed_within_song : Prop :=
  ∀ s t : State, s.elapsedWithinSong → s.loopStartsBeforeEnd → s.seekingMatchesPhase → step s = .next t →
    t.elapsedWithinSong ∧ t.loopStartsBeforeEnd ∧ t.seekingMatchesPhase

/-- R49, R51, R328, R329, R335, R363, R440, R452: every step keeps the per-note fields in their ranges, a note's duration below 2^28, the
phase increment below 2^32 and the decoder's predictor and its snapshot's an s16, and a live channel's instrument of the class of its
pool. -/
def Obligations.step_keeps_channel_ranges : Prop :=
  ∀ s t : State, step s = .next t →
    (s.tableWellFormed → s.channelsInRange → t.channelsInRange) ∧ (s.instrumentsMatchPools → t.instrumentsMatchPools)

/-- R113, R357, R387, R389 (the spec's inference): every step keeps every live channel's region inside `sample_rom`, its position inside
its region and its loop snapshot taken in time; from such a state no step stops with `unsoundChannel` (log 15). -/
def Obligations.step_keeps_channels_renderable : Prop :=
  ∀ s : State, s.channelsRenderable → step s ≠ .fault .unsoundChannel ∧ ∀ t : State, step s = .next t → t.channelsRenderable

/-! ## Reset -/

/-- R530: the registers after PowerOn. -/
def Obligations.reset_values : Prop :=
  let s := State.reset
  s.mode = .noSong ∧ s.tempo = 120#16 ∧ s.tempoStack = 0 ∧ s.elapsed = 0 ∧ s.loopCount = 0 ∧ s.fade = .none ∧ s.loadStatus = .ok ∧
    s.muteMask = 0#16 ∧ s.seeking = false ∧ s.song = none ∧ s.hostQueue = [] ∧
    (∀ t : TrackId, ∀ p : Nat, s.entryAt t p = none) ∧ s.maxTicks = 0 ∧ s.longest = 0 ∧
    s.loopStartTick = none ∧
    (∀ t : TrackId,
      s.tracks[t] =
        { opened := false, stopped := true, cursor := 0, rest := 0, voice := 0, volume := 127, expression := 127, pan := 0,
          pitchBend := 0#8, bendRange := 2#8, transpose := 0#8, priority := 64#8, atkOvr := none, decOvr := none, susOvr := none,
          relOvr := none, lfoDepth := 0#8, lfoSpeed := 16#8, lfoRange := 1#8, lfoTarget := .pitch, lfoDelay := 0#16,
          lfoPhase := 0#8, lfoDelayCount := 0#16, stack := [] }) ∧
    ∀ c : ChanId,
      s.channels[c] =
        { state := .dead, owner := none, key := 0, velocity := 0, durLeft := 0, inst := none, a := 0#8, d := 0#8, s := 0#8, r := 0#8,
          level := 0, gainL := 0, gainR := 0, step := 0, pos := 0, frac := 0#16, phase := 0#32, lfsr := 0x7FFF#15,
          codec := ⟨0, 0, 0, none⟩ }

/-- The state after PowerOn (R530) meets every invariant stated above; where one reads a field the model chose at reset, log 19. -/
def Obligations.reset_meets_invariants : Prop :=
  State.reset.ownersMatchLife ∧ State.reset.cursorsNameCommands ∧ State.reset.tracksInRange ∧ State.reset.tableWellFormed ∧ State.reset.tableMatchesRom ∧
    State.reset.memoryWf ∧ State.reset.outputInRange ∧ State.reset.modeMatchesSong ∧ State.reset.tempoStackBelow ∧
    State.reset.seekingMatchesPhase ∧ State.reset.elapsedWithinSong ∧ State.reset.loopStartsBeforeEnd ∧
    State.reset.channelsInRange ∧ State.reset.instrumentsMatchPools ∧ State.reset.channelsRenderable

/-! ## Frame steps and the host -/

/-- R116, R270, R287, R480, R507: with no host command, a frame step outside `Playing` outputs one quantum of zeros, refreshes telemetry and
changes nothing else, the fade and `tempoStack` included; and what telemetry shows of any state: the engine's registers, each track's, the keys
of its live channels in channel order, and the class of the lowest of them. That the frame step takes two model steps is log 2. -/
def Obligations.silent_frame_step : Prop :=
  (∀ s : State, s.phase = .boundary → s.hostQueue = [] → s.mode ≠ .playing →
    frameStep 2 s =
      some (.next { s with taken := [], pcmOut := List.replicate Config.samplesPerFrame (0, 0), telemetry := telemetryOf s })) ∧
    ∀ s : State,
      let x := telemetryOf s
      x.mode = s.mode ∧ x.elapsed = s.elapsed ∧ x.maxTicks = (s.song.map SongTable.maxTicks).getD 0 ∧ x.loopCount = s.loopCount ∧
        x.tempo = s.tempo ∧
        ∀ t : TrackId,
          let owned : ChanId → Prop := fun c => s.channels[c].state ≠ .dead ∧ s.channels[c].owner = some t
          x.tracks[t] =
              { opened := s.tracks[t].opened, stopped := s.tracks[t].stopped, cursor := s.tracks[t].cursor,
                activeKeys :=
                  ((List.finRange Profile.reference.numChannels).filter fun c =>
                    decide (s.channels[c].state ≠ .dead ∧ s.channels[c].owner = some t)).map fun c => s.channels[c].key
                volume := s.tracks[t].volume, expression := s.tracks[t].expression, pan := s.tracks[t].pan,
                pitchBend := s.tracks[t].pitchBend, bendRange := s.tracks[t].bendRange, transpose := s.tracks[t].transpose,
                voice := s.tracks[t].voice, voiceType := x.tracks[t].voiceType } ∧
            ((∀ c : ChanId, ¬ owned c) → x.tracks[t].voiceType = none) ∧
            ∀ c : ChanId, owned c → (∀ j : ChanId, j < c → ¬ owned j) →
              x.tracks[t].voiceType = some (Profile.reference.classOf c)

/-- R272, R270: in `Playing` the tempo is added once; each tick takes `TEMPO_THRESH` from the accumulator and adds one to `E`; no other
step of the ticks touches the accumulator; when it holds less, the frame step ends. The phases are log 2. -/
def Obligations.frame_ticks_follow_tempo : Prop :=
  (∀ s : State, s.phase = .host → s.taken = [] → s.mode = .playing →
    step s = .next { s with tempoStack := s.tempoStack + s.tempo.toNat, phase := .ticks .frame }) ∧
    ∀ s t : State, s.phase.ofFrameTicks = true → step s = .next t →
      (s.phase ≠ .ticks .frame ∧ t.tempoStack = s.tempoStack ∧ t.phase.ofFrameTicks = true) ∨
        (s.phase = .ticks .frame ∧ Config.tempoThresh ≤ s.tempoStack ∧
          t = { s with tempoStack := s.tempoStack - Config.tempoThresh, elapsed := s.elapsed + 1, cur := 0, phase := .tickPre .frame }) ∨
        (s.phase = .ticks .frame ∧ s.tempoStack < Config.tempoThresh ∧ t.phase = .boundary ∧
          (t.tempoStack = s.tempoStack ∨ t.tempoStack = 0))

/-- The state with `RecomputeGain` done for every live channel by its owner's registers and its instrument (R336). -/
def Sys2Proof.Machine.State.withGainsOf (s : State) : State :=
  { s with
    channels := vecOfFn fun c =>
      match s.channels[c].owner, s.channels[c].inst with
      | some t, some i =>
        if s.channels[c].state = .dead then s.channels[c] else recomputeGain Profile.reference s.tracks[t] i s.channels[c]
      | _, _ => s.channels[c] }

/-- R271, R273, R274, R275, R336: in a tick each track in index order counts its rest down, steps its LFO and ticks exactly the live channels it
owns, each by its class's law, before its commands; when it may not run, the next track's turn comes; after track 15 the gains of all live
channels are recomputed and the loop is checked. A tick-0 pass only runs the tracks in order and then recomputes the gains. That these are
steps of their own is log 2. -/
def Obligations.tick_and_pass_structure : Prop :=
  (∀ (s : State) (job : TickJob), s.phase = .tickPre job →
    step s =
      .next
        { s with
          tracks := s.tracks.set s.cur { s.track.lfoStep with rest := s.track.rest - 1 }
          channels := vecOfFn fun c =>
            if s.channels[c].state ≠ .dead ∧ s.channels[c].owner = some s.cur then
              s.channels[c].tick (Profile.reference.envLaw (Profile.reference.classOf c))
            else s.channels[c]
          phase := .tickRun job }) ∧
    (∀ s : State, s.track.runnable = true ↔ s.track.opened = true ∧ s.track.stopped = false ∧ s.track.rest = 0) ∧
    (∀ (s : State) (u : TrackId), s.track.runnable = false → u.val = s.cur.val + 1 →
      (∀ job : TickJob, s.phase = .tickRun job → step s = .next { s with cur := u, phase := .tickPre job }) ∧
        ∀ job : PassJob, s.phase = .pass job → step s = .next { s with cur := u }) ∧
    (∀ s : State, s.track.runnable = false → s.cur.val = 15 →
      (∀ c : ChanId, s.channels[c].state ≠ .dead → s.channels[c].owner.isSome = true ∧ s.channels[c].inst.isSome = true) →
      (∀ job : TickJob, s.phase = .tickRun job → step s = .next { loopCheck s.withGainsOf with phase := .ticks job }) ∧
        (s.phase = .pass .play → step s = .next { s.withGainsOf with mode := .playing, phase := .host }) ∧
        ∀ (m : Mode) (n : Nat), s.phase = .pass (.seek m n) → step s = .next { s.withGainsOf with phase := .ticks (.seek m n) }) ∧
    ∀ (s : State) (m : Mode) (n : Nat), s.phase = .ticks (.seek m n) → s.elapsed < min n s.maxTicks →
      step s = .next { s with elapsed := s.elapsed + 1, cur := 0, phase := .tickPre (.seek m n) }

/-- R503, R504, R506, R508: `Stop`, `Pause`, `FadeIn` and `ShutDown` in every mode. That `ShutDown` resets the tracks with no start table and
discards the commands already taken in this frame step only is log 10. -/
def Obligations.stop_pause_fade_in_shut_down : Prop :=
  ∀ s : State,
    perform .stop s =
        .next
          (if s.mode = .playing ∨ s.mode = .paused then
            { s with
              channels := vecMap (fun ch => { ch with state := .dead, owner := none }) s.channels
              tracks := vecMap Track.reset s.startTable
              tempo := 120#16
              tempoStack := 0
              elapsed := 0
              loopCount := 0
              fade := .none
              mode := if s.song = none then .noSong else .stopped }
          else s) ∧
      perform .pause s = .next (if s.mode = .playing then { s with mode := .paused } else s) ∧
      perform .fadeIn s = .next (if s.mode = .playing ∨ s.mode = .paused then { s with fade := .fadeIn 0 163840 } else s) ∧
      perform .shutDown s =
        .next
          { s with
            channels := vecMap (fun ch => { ch with state := .dead, owner := none }) s.channels
            tracks := State.reset.tracks
            tempo := 120#16
            tempoStack := 0
            elapsed := 0
            loopCount := 0
            fade := .none
            mode := .noSong
            song := none
            taken := [] }

/-- R271, R285, R502, R505: `Play` and `SetCurrentPosition` in every mode: what playback start writes before the tick-0 pass, and how a
seek ends. That the pass and the seek's ticks are steps of their own is log 2. -/
def Obligations.play_and_seek : Prop :=
  (∀ s : State, s.mode = .playing ∨ s.mode = .noSong → perform .play s = .next s) ∧
    (∀ s : State, s.mode = .paused → perform .play s = .next { s with mode := .playing }) ∧
    (∀ (s : State) (n : Nat), s.mode = .noSong → perform (.setCurrentPosition n) s = .next s) ∧
    (∀ s : State,
      let start : State :=
        { s with
          channels := vecMap (fun ch => { ch with state := .dead, owner := none }) s.channels
          tracks := vecMap Track.reset s.startTable
          tempo := 120#16
          tempoStack := 0
          elapsed := 0
          loopCount := 0
          fade := .none
          cur := 0 }
      (s.mode = .stopped → perform .play s = .next { start with phase := .pass .play }) ∧
        (s.mode ≠ .noSong → ∀ n : Nat,
          perform (.setCurrentPosition n) s = .next { start with seeking := true, phase := .pass (.seek s.mode n) })) ∧
    ∀ (s : State) (m : Mode) (n : Nat), s.phase = .ticks (.seek m n) → min n s.maxTicks ≤ s.elapsed →
      step s =
        .next
          { s with
            elapsed := if s.elapsed = s.maxTicks then s.loopStartTick.getD s.elapsed else s.elapsed
            seeking := false
            mode := if m = .playing then .playing else .paused
            phase := .host }

/-- R270, R500, R509: a frame step first takes the whole host queue; then it performs the taken commands one by one in queue order; after the last,
in a mode other than `Playing`, it outputs the silent quantum and ends (in `Playing`, see frame_ticks_follow_tempo). A host command enqueued
during a frame step changes nothing that the frame step does; it waits. That these are steps of their own is log 2, that a command waits through
a `ShutDown` too is log 10, and that the host may enqueue between two model steps of a frame step is log 23. -/
def Obligations.queued_command_waits : Prop :=
  (∀ s : State, s.phase = .boundary → step s = .next { s with taken := s.hostQueue, hostQueue := [], phase := .host }) ∧
    (∀ (s : State) (c : HostCmd) (cs : List HostCmd), s.phase = .host → s.taken = c :: cs →
      step s = perform c { s with taken := cs }) ∧
    (∀ s : State, s.phase = .host → s.taken = [] → s.mode ≠ .playing →
      step s =
        .next
          { s with
            pcmOut := List.replicate Config.samplesPerFrame (0, 0), telemetry := telemetryOf s, phase := .boundary }) ∧
    (∀ (s : State) (c : HostCmd), s.enqueue c = { s with hostQueue := s.hostQueue ++ [c] }) ∧
    ∀ (s t : State) (c : HostCmd), s.phase ≠ .boundary → step s = .next t → step (s.enqueue c) = .next (t.enqueue c)

/-- R491, R501, R503: `LoadSong` stops everything; then a load that succeeds installs its table and stops at `Stopped`, and one that fails
leaves `NoSong` and the recorded error. The ports show the new song in both outcomes, and nothing else changes: the bank, `sample_rom`, the
queues, the mute mask, telemetry and the output port stay. That the tracks are reset from the old start table, and that the ports show the new
song, is log 9. -/
def Obligations.load_outcome : Prop :=
  ∀ (s : State) (song : Song), song.rom.len ≤ 16777216 →
    let stopped : State :=
      { s with
        channels := vecMap (fun ch => { ch with state := .dead, owner := none }) s.channels
        tracks := vecMap Track.reset s.startTable
        tempo := 120#16
        tempoStack := 0
        elapsed := 0
        loopCount := 0
        fade := .none
        seqRom := song.rom
        trackStarts := song.starts }
    (∀ g : SongTable, load s song = .ok g →
      perform (.loadSong song) s = .next { stopped with song := some g, loadStatus := .ok, mode := .stopped }) ∧
      ∀ e : LoadError, load s song = .error (.error e) →
        perform (.loadSong song) s = .next { stopped with song := none, loadStatus := .failed e, mode := .noSong }

/-- R283, R284, R290: the loop check, the fade trigger at the reference threshold, and the end check. -/
def Obligations.loop_check_and_end_check : Prop :=
  (∀ s : State,
    loopCheck s =
      match s.loopStartTick with
      | none => s
      | some l =>
        if s.seeking = false ∧ s.elapsed = s.maxTicks then
          { s with
            elapsed := l
            loopCount := s.loopCount + 1
            fade := if 1 < s.loopCount + 1 ∧ s.fade = .none then .fadeOut 0 163840 else s.fade }
        else s) ∧
    ∀ s : State,
      (s.mode = .playing ∧
          (((∀ t : TrackId, s.tracks[t].stopped = true) ∧ ∀ c : ChanId, s.channels[c].state = .dead) ∨ s.fade = .done) →
        endCheck s = s.stopAll) ∧
      (¬ (s.mode = .playing ∧
          (((∀ t : TrackId, s.tracks[t].stopped = true) ∧ ∀ c : ChanId, s.channels[c].state = .dead) ∨ s.fade = .done)) →
        endCheck s = s)

/-- What a channel adds to one side of the mix at one output sample (R470 to R473): nothing when it is dead, unowned or of a muted track. -/
def Sys2Proof.Machine.Channel.mixPart (rom : Memory) (mask : Half) (gain : Channel → Nat) (ch : Channel) : Int :=
  match ch.owner with
  | none => 0
  | some u =>
    if ch.state = .dead ∨ mask.getLsbD u.val = true then 0 else (renderChannel Profile.reference rom ch).1 * (gain ch : Int) / 128

/-- The pool after one output sample (R471): every live channel rendered. -/
def Sys2Proof.Machine.renderedOnce (rom : Memory) (chs : List Channel) : List Channel :=
  chs.map fun ch => if ch.state ≠ .dead ∧ ch.owner.isSome = true then (renderChannel Profile.reference rom ch).2 else ch

/-- R37, R116, R270, R290, R470 to R474, R476, R478: the step after a played frame step's last tick. Each of the 512 pairs is the sum of what the
unmuted channels add, times the fade gain of that sample, clamped once; every live channel has rendered and the fade advanced 512 times, and
nothing else changed; the end check follows, then telemetry shows the result and the frame step is over. The mute mask reaches the output
port and nothing else: with another mask a step does the same to every other field. That the quantum is one step is log 2. -/
def Obligations.mixing_law_and_mute : Prop :=
  (∀ s : State, s.phase = .ticks .frame → s.tempoStack < 240 → s.mode = .playing → s.channelsRenderable →
    ∃ u : State,
      u = { s with channels := u.channels, fade := fadeAdvance^[512] s.fade, pcmOut := u.pcmOut } ∧
        u.channels.toList = (renderedOnce s.sampleRom)^[512] s.channels.toList ∧
        step s = .next { endCheck u with telemetry := telemetryOf (endCheck u), phase := .boundary } ∧
        (endCheck u).pcmOut = u.pcmOut ∧ u.pcmOut.length = 512 ∧
        ∀ k : Nat, k < 512 →
          let chs := (renderedOnce s.sampleRom)^[k] s.channels.toList
          let g := fadeGain 2 (fadeAdvance^[k] s.fade)
          u.pcmOut[k]? =
            some
              (max (-32768) (min 32767 ((chs.map (Channel.mixPart s.sampleRom s.muteMask Channel.gainL)).sum * g / 65536)),
                max (-32768) (min 32767 ((chs.map (Channel.mixPart s.sampleRom s.muteMask Channel.gainR)).sum * g / 65536)))) ∧
    ∀ (s t : State) (mask : Half), step s = .next t →
      ∃ out, step (s.driveMute mask) = .next { t.driveMute mask with pcmOut := out }

/-! ## Sound -/

/-- R327 to R329: the reference phase increment is the floor of the real product with the power of two, clamped as the rule says. That the model
computes it exactly is log 21. -/
def Obligations.freq_step_is_floor : Prop :=
  ∀ (c : VoiceClass) (i : Instrument) (cents : Int),
    Profile.reference.freqStep c i cents =
      match i.payload with
      | .pcm g => min (2 ^ 32 - 1) ⌊(g.rate : ℝ) * (2 : ℝ) ^ ((cents : ℝ) / 1200) * 65536 / 32768⌋₊
      | _ => max 1 (min (2 ^ 32 - 1) ⌊440 * (2 : ℝ) ^ ((cents : ℝ) / 1200) * 2 ^ 32 / 32768⌋₊)

/-- R335: `RecomputeGain` writes the two gains and the step by its formula; the gains stay within 0..127, full left gives the left side
everything, and the centre halves. -/
def Obligations.gain_law : Prop :=
  ∀ (t : Track) (i : Instrument) (ch : Channel),
    let base : Nat := ch.velocity * t.volume * t.expression / 16129
    let amp : Nat := base * ch.level / 255
    let amp' : Int := if amp = 0 then 0 else max 0 (min 127 ((amp : Int) + lfoVol t))
    let p : Int := max (-64) (min 63 (t.pan + lfoPan t))
    let q := recomputeGain Profile.reference t i ch
    q = { ch with gainL := q.gainL, gainR := q.gainR, step := q.step } ∧ (q.gainL : Int) = amp' * (64 - p) / 128 ∧
      (q.gainR : Int) = amp' * (64 + p) / 128 ∧ q.step = Profile.reference.freqStep i.cls i (centsOf t i ch.key) ∧ q.gainL ≤ 127 ∧ q.gainR ≤ 127 ∧
      (p = -64 → (q.gainL : Int) = amp' ∧ q.gainR = 0) ∧ (p = 0 → (q.gainL : Int) = amp' / 2 ∧ (q.gainR : Int) = amp' / 2) ∧
      (ch.velocity ≤ 127 → t.volume ≤ 127 → t.expression ≤ 127 → base ≤ 127 ∧ (ch.level ≤ 255 → amp ≤ 127))

/-- R325, R326, R330 to R333: the LFO step, its triangle, its value on its one target, the bend and the cents of a note. -/
def Obligations.lfo_and_pitch_law : Prop :=
  ∀ t : Track,
    (t.lfoStep =
      if t.lfoDelayCount = 0#16 then { t with lfoPhase := BitVec.ofNat 8 (t.lfoPhase.toNat + t.lfoSpeed.toNat) }
      else { t with lfoDelayCount := BitVec.ofNat 16 (t.lfoDelayCount.toNat - 1) }) ∧
      (∀ p : Byte, -64 ≤ tri p ∧ tri p ≤ 64 ∧
        tri p = if p.toNat < 64 then (p.toNat : Int) else if p.toNat < 192 then 128 - (p.toNat : Int) else (p.toNat : Int) - 256) ∧
      (lfoValue t =
        if 0 < t.lfoDelayCount.toNat ∨ t.lfoTarget = .off then 0
        else tri t.lfoPhase * (t.lfoDepth.toNat : Int) * (t.lfoRange.toNat : Int) / 64) ∧
      (lfoPitch t = if t.lfoTarget = .pitch then lfoValue t else 0) ∧
      (lfoVol t = if t.lfoTarget = .volume then lfoValue t / 4 else 0) ∧
      (lfoPan t = if t.lfoTarget = .pan then lfoValue t / 4 else 0) ∧
      (bendCents t = (t.pitchBend.toInt * (t.bendRange.toNat : Int) * 100).tdiv 128) ∧
      ∀ (i : Instrument) (key : Nat),
        centsOf t i key =
          (((i.fixedKey.getD key : Nat) : Int) - (if i.cls = .pcm then (i.baseNote : Int) else 69)) * 100 + bendCents t + lfoPitch t

/-- The samples a decoder gives for a sequence of nibbles (R361). -/
def Sys2Proof.Machine.codecSamples (P : Profile) : Codec → List Nat → List Int
  | _, [] => []
  | q, b :: bs => (q.decode P b).pred :: codecSamples P (q.decode P b) bs

/-- R362, R363, R356 (the spec's inferences): restoring a snapshot into any decoder state gives the samples the snapshotted state gives;
every sample is an s16; the exact difference exceeds the shifted one by at most 2, and equals it at a multiple of 8. -/
def Obligations.codec_snapshot_and_bounds : Prop :=
  (∀ (P : Profile) (q q' : Codec) (v : List Nat), codecSamples P (q'.restore q.snapshot) v = codecSamples P q v) ∧
    (∀ (P : Profile) (q : Codec) (v : List Nat), ∀ x ∈ codecSamples P q v, -32768 ≤ x ∧ x ≤ 32767) ∧
    ∀ s m : Nat, m < 8 →
      adpcmDifference .shift s m ≤ adpcmDifference .exact s m ∧ adpcmDifference .exact s m ≤ adpcmDifference .shift s m + 2 ∧
        (8 ∣ s → adpcmDifference .shift s m = adpcmDifference .exact s m)

/-- Sample j of a PCM8 or PCM16 region (R381, R382). -/
def Sys2Proof.Machine.regionSample (rom : Memory) (g : Region) (j : Nat) : Int :=
  if g.format = .pcm8 then (BitVec.ofNat 8 (rom.byteNat (g.addr + j))).toInt * 256
  else (BitVec.ofNat 16 (rom.byteNat (g.addr + 2 * j) + 256 * rom.byteNat (g.addr + 2 * j + 1))).toInt

/-- The decoder after `n` more nibbles of an ADPCM region, low nibble first after the four header bytes (R350, R353), its snapshot aside. -/
def Sys2Proof.Machine.nibblesOn (P : Profile) (rom : Memory) (g : Region) (n : Nat) (q : Codec) : Codec :=
  (List.range n).foldl
    (fun x j => x.decode P (rom.byteNat (g.addr + 4 + (q.nib + j) / 2) / 16 ^ ((q.nib + j) % 2) % 16)) q

/-- R380 to R388, R357 to R359: a PCM channel's sample in three formats and both interpolation modes, its position and fraction after it, its
decoder after it with the loop snapshot kept or taken as nibble `loopStart` is passed, and at the region's end the wrap of a well-formed loop,
the decoder put back to the loop point, or death. PCM8 and PCM16 leave the decoder alone. -/
def Obligations.pcm_render_values : Prop :=
  ∀ (P : Profile) (rom : Memory) (g : Region) (ch : Channel),
    let out := renderPcm P rom g ch
    let n := ch.pos * 65536 + ch.frac.toNat + ch.step
    (g.format ≠ .adpcm →
      out.1 =
        match P.interp with
        | .carry => regionSample rom g ch.pos
        | .linear =>
          regionSample rom g ch.pos +
            (regionSample rom g (if ch.pos + 1 < g.length then ch.pos + 1 else ch.pos) - regionSample rom g ch.pos) *
                (ch.frac.toNat : Int) / 65536) ∧
      (g.format = .adpcm → out.1 = (nibblesOn P rom g (ch.pos + 1 - ch.codec.nib) ch.codec).pred) ∧
      (g.format ≠ .adpcm → out.2.codec = ch.codec) ∧
      (g.format = .adpcm → (n / 65536 < g.length ∨ g.loop = false ∨ g.length ≤ g.loopStart) →
        let m := ch.pos + 1 - ch.codec.nib
        let d := nibblesOn P rom g m ch.codec
        let e := nibblesOn P rom g (g.loopStart - ch.codec.nib) ch.codec
        out.2.codec.pred = d.pred ∧ out.2.codec.idx = d.idx ∧ out.2.codec.nib = ch.codec.nib + m ∧
          out.2.codec.snap =
            if ch.codec.snap = none ∧ g.loop = true ∧ g.loopStart < g.length ∧ ch.codec.nib ≤ g.loopStart ∧
                g.loopStart < ch.codec.nib + m then
              some ⟨e.pred, e.idx, g.loopStart⟩
            else ch.codec.snap) ∧
      out.2.frac.toNat = n % 65536 ∧
      (n / 65536 < g.length → out.2.pos = n / 65536 ∧ out.2.state = ch.state ∧ out.2.owner = ch.owner) ∧
      (g.length ≤ n / 65536 → (g.loop = false ∨ g.length ≤ g.loopStart) → out.2.state = .dead ∧ out.2.owner = none) ∧
      (g.length ≤ n / 65536 → g.loop = true → g.loopStart < g.length →
        out.2.pos = g.loopStart + (n / 65536 - g.length) % (g.length - g.loopStart) ∧ out.2.state = ch.state ∧
          out.2.owner = ch.owner ∧
          (∀ p, g.format = .adpcm → ch.codec.snap = some p → out.2.codec = ⟨p.pred, p.idx, p.nib, some p⟩) ∧
          (g.format = .adpcm → ch.codec.snap = none → ch.codec.nib ≤ g.loopStart →
            let d := nibblesOn P rom g (g.loopStart - ch.codec.nib) ch.codec
            out.2.codec = ⟨d.pred, d.idx, g.loopStart, some ⟨d.pred, d.idx, g.loopStart⟩⟩))

/-- R405, R406, R410, R411, R416, R417, R421, R422, R471, R380: the values of the square, wavetable and noise generators and their registers after a sample;
a rendered sample is an s16, a synthetic one at most `SYNTH_AMP` in size, and rendering writes the channel's render fields only, or
kills it. -/
def Obligations.render_values_and_range : Prop :=
  (∀ (d : Fin 4) (ch : Channel),
    let pattern : List Nat :=
      [[0, 0, 0, 0, 0, 0, 0, 1], [1, 0, 0, 0, 0, 0, 0, 1], [1, 0, 0, 0, 0, 1, 1, 1], [0, 1, 1, 1, 1, 1, 1, 0]].getD d.val []
    renderSquare 8192 d ch =
      (if pattern.getD (ch.phase.toNat / 2 ^ 29) 0 = 1 then 8192 else -8192,
        { ch with phase := BitVec.ofNat 32 (ch.phase.toNat + ch.step) })) ∧
    (∀ (w : Vector Byte 16) (ch : Channel),
      let n := ch.phase.toNat / 2 ^ 27
      let v := (w.toList.getD (n / 2) 0#8).toNat
      renderWave 8192 w ch =
        (((if n % 2 = 0 then v / 16 else v % 16 : Nat) - 8 : Int) * 1024,
          { ch with phase := BitVec.ofNat 32 (ch.phase.toNat + ch.step) })) ∧
    (∀ (p : Fin 2) (ch : Channel),
      let x := ch.lfsr.toNat
      let fb := (x + x / 2) % 2
      let y := x / 2 + 16384 * fb
      let clocked := if p = 1 then y - y / 64 % 2 * 64 + 64 * fb else y
      (renderNoise 8192 p ch).1 = (if x % 2 = 0 then 8192 else -8192) ∧
        (renderNoise 8192 p ch).2 =
          { ch with
            phase := BitVec.ofNat 32 (ch.phase.toNat + ch.step)
            lfsr := (renderNoise 8192 p ch).2.lfsr } ∧
        (renderNoise 8192 p ch).2.lfsr.toNat = if 2 ^ 32 ≤ ch.phase.toNat + ch.step then clocked else x) ∧
    (∀ (P : Profile) (rom : Memory) (ch : Channel), P.synthAmp = 8192 → -32768 ≤ ch.codec.pred → ch.codec.pred ≤ 32767 →
      -32768 ≤ (renderChannel P rom ch).1 ∧ (renderChannel P rom ch).1 ≤ 32767 ∧
        ∃ q : Channel,
          q = { ch with pos := q.pos, frac := q.frac, phase := q.phase, lfsr := q.lfsr, codec := q.codec } ∧
            ((renderChannel P rom ch).2 = q ∨ (renderChannel P rom ch).2 = { q with state := .dead, owner := none })) ∧
    ∀ (d : Fin 4) (w : Vector Byte 16) (p : Fin 2) (ch : Channel),
      |(renderSquare 8192 d ch).1| ≤ 8192 ∧ |(renderWave 8192 w ch).1| ≤ 8192 ∧ |(renderNoise 8192 p ch).1| ≤ 8192

/-- R476 to R478: the fade-out gain falls from unity to 0 and the fade-in gain rises from 0 to unity, over exactly the total of output
samples, for every exponent from 1 up. -/
def Obligations.fade_law : Prop :=
  ∀ k N : Nat, 1 ≤ k → 0 < N →
    fadeGain k (.fadeOut 0 N) = 65536 ∧ fadeGain k (.fadeOut N N) = 0 ∧ fadeGain k (.fadeIn 0 N) = 0 ∧
      fadeGain k (.fadeIn N N) = 65536 ∧
      (∀ n : Nat, n < N →
        fadeGain k (.fadeOut (n + 1) N) ≤ fadeGain k (.fadeOut n N) ∧ fadeGain k (.fadeIn n N) ≤ fadeGain k (.fadeIn (n + 1) N)) ∧
      ∀ n : Nat,
        fadeAdvance^[n] (.fadeOut 0 N) = (if n < N then .fadeOut n N else .done) ∧
          fadeAdvance^[n] (.fadeIn 0 N) = if n < N then .fadeIn n N else .none

/-! ## The load -/

/-- R187 (the spec's inference): the structural walk of every sequence ends within the model's bound (log 14). -/
def Obligations.walk_terminates : Prop :=
  ∀ (P : Profile) (song : Song), walk P song ≠ .error (.fault .walkDiverged)

/-- R181, R186 (the spec's inference): a walk that ends without error has decoded every start, and every place a decoded command falls
through to, jumps to, calls or opens. -/
def Obligations.walk_is_closed : Prop :=
  ∀ (P : Profile) (song : Song) (tables : WalkTables), walk P song = .ok tables →
    (∀ (t : TrackId) (x : Off24), song.starts[t] = some x → (lookupWalk tables[t] x.toNat).isSome = true) ∧
      ∀ (t : TrackId) (p : Nat) (e : WalkEntry), lookupWalk tables[t] p = some e →
        (e.cmd ≠ .fine → e.cmd ≠ .ret → (∀ x, e.cmd ≠ .jump x) → (lookupWalk tables[t] (p + e.len)).isSome = true) ∧
          (∀ x, e.cmd = .jump x ∨ e.cmd = .call x → (lookupWalk tables[t] x.toNat).isSome = true) ∧
          ∀ i x, e.cmd = .trackOpen i x → (lookupWalk tables[i] x.toNat).isSome = true

/-- R180, R190, R199: a load is a function of the sequence bytes, the start table and the profile alone: no state of the block reaches its
result. -/
def Obligations.load_is_pure : Prop :=
  ∀ (P : Profile) (s s' : State P) (song : Song), load s song = load s' song

/-- R190 to R197, R275: the accounting pass. A track's command loop stops when it is done, stopped or resting, a stopped track being done at the
current `E`; past EXEC_LIMIT commands, or at a command already stamped now with its cycle known, it is `ZeroTickLoop`; at one stamped earlier with
its cycle known the track is done; else the command is stamped and executed by its own meaning, its stack errors being load errors and a track it
opened no longer done. Each tick adds 1 to `E` and takes the tracks in index order, counting a rest down and executing at 0; the pass ends when
all are done, or at ACCOUNT_LIMIT. Stamping adds `E` to the executed command's set, once, and to no other. The results are the greatest length of
an opened track, the lowest such track and its cycle tick, or 0, 0 and none. That a set is a rising list, so that its first tick is its least,
and that only opened tracks count is log 11. -/
def Obligations.accounting_stamps_and_results : Prop :=
  (∀ (P : Profile) (a : Acct P),
    let t := a.m.cur
    let x := a.m.track
    let raise : LoadErrorKind → LoadStop := fun k => .error ⟨k, some t, some x.cursor, a.m.seqRom.read x.cursor⟩
    (∀ n : Nat, a.done[t] = true ∨ x.stopped = true ∨ x.rest ≠ 0 →
      acctExec n a =
        .ok (if x.stopped = true then { a with done := a.done.set t true, length := a.length.set t a.m.elapsed } else a)) ∧
      (a.done[t] = false → x.stopped = false → x.rest = 0 →
        acctExec 0 a = .error (raise .zeroTickLoop) ∧
          ∀ (n : Nat) (e : Entry), a.m.fetch = some e →
            let known : Prop := e.ticks ≠ [] ∧ ∀ y ∈ x.stack, ∃ b, y = .loop b 0
            (known → e.ticks.headD 0 = a.m.elapsed → acctExec (n + 1) a = .error (raise .zeroTickLoop)) ∧
              (known → e.ticks.headD 0 ≠ a.m.elapsed →
                acctExec (n + 1) a =
                  .ok { a with
                    done := a.done.set t true
                    length := a.length.set t a.m.elapsed
                    cycle := a.cycle.set t (some (e.ticks.headD 0)) }) ∧
              (¬ known →
                (∀ m' : State P, execute e.cmd a.m.stamp = .next m' →
                  acctExec (n + 1) a =
                    acctExec n
                      { a with
                        m := m'
                        done := vecOfFn fun i =>
                          if a.m.tracks[i].opened = false ∧ m'.tracks[i].opened = true then false else a.done[i] }) ∧
                  (execute e.cmd a.m.stamp = .fault .callStackOverflow → acctExec (n + 1) a = .error (raise .callStackOverflow)) ∧
                  (execute e.cmd a.m.stamp = .fault .returnUnderflow → acctExec (n + 1) a = .error (raise .returnUnderflow)) ∧
                  (execute e.cmd a.m.stamp = .fault .badLoopEnd → acctExec (n + 1) a = .error (raise .badLoopEnd)))) ∧
      (∀ u : TrackId,
        acctTickZero u a =
            (if a.done[u] = false ∧ a.m.tracks[u].stopped = false then acctExec P.execLimit { a with m := { a.m with cur := u } }
            else .ok a) ∧
          acctTrack u a =
            if a.m.tracks[u].opened = true ∧ a.m.tracks[u].stopped = false ∧ a.done[u] = false then
              let b : Acct P :=
                { a with
                  m := { a.m with tracks := a.m.tracks.set u { a.m.tracks[u] with rest := a.m.tracks[u].rest - 1 }, cur := u } }
              if a.m.tracks[u].rest - 1 = 0 then acctExec P.execLimit b else .ok b
            else .ok a) ∧
      ((∀ u : TrackId, a.done[u] = true) → ∀ n : Nat, acctLoop n a = .ok a) ∧
      ∀ u : TrackId, a.done[u] = false →
        acctLoop 0 a = .error (.error ⟨.accountLimit, none, none, none⟩) ∧
          ∀ n : Nat,
            acctLoop (n + 1) a =
              ((List.finRange 16).foldlM (fun (b : Acct P) v => acctTrack v b) { a with m := { a.m with elapsed := a.m.elapsed + 1 } }).bind
                (acctLoop n)) ∧
    (∀ (P : Profile) (s : State P) (song : Song) (tables : WalkTables),
      let a := acctStart s song tables
      a.m.elapsed = 0 ∧
        (∀ t : TrackId, a.m.tracks[t] = Track.reset song.starts[t] ∧ a.done[t] = !a.m.tracks[t].opened ∧ a.length[t] = 0 ∧
          a.cycle[t] = none) ∧
        let pass := ((List.finRange 16).foldlM (fun (b : Acct P) v => acctTickZero v b) a).bind (acctLoop P.accountLimit)
        (∀ (b : Acct P) (g : SongTable), pass = .ok b → b.m.song = some g → account s song tables = .ok (acctResult b g)) ∧
          ∀ e : LoadStop, pass = .error e → account s song tables = .error e) ∧
    (∀ (P : Profile) (s : State P) (e : Entry), s.fetch = some e →
      s.stamp = { s with song := s.stamp.song } ∧
        s.stamp.fetch =
          some { e with ticks := if s.elapsed ∈ e.ticks then e.ticks else e.ticks ++ [s.elapsed] } ∧
        ∀ (t : TrackId) (p : Nat), t ≠ s.cur ∨ p ≠ s.track.cursor → s.stamp.entryAt t p = s.entryAt t p) ∧
    ∀ (P : Profile) (a : Acct P) (g : SongTable),
      let r := acctResult a g
      r = { g with maxTicks := r.maxTicks, longest := r.longest, loopStartTick := r.loopStartTick } ∧
        ((∀ t : TrackId, a.m.tracks[t].opened = false) → r.maxTicks = 0 ∧ r.longest = 0 ∧ r.loopStartTick = none) ∧
        ∀ t : TrackId, a.m.tracks[t].opened = true →
          a.length[t] ≤ r.maxTicks ∧ a.m.tracks[r.longest].opened = true ∧ a.length[r.longest] = r.maxTicks ∧
            r.loopStartTick = a.cycle[r.longest] ∧ (t < r.longest → a.length[t] < r.maxTicks)

/-- R193, R195, R196, R493: of a loaded table every tick set is rising and holds no tick after `MaxTicks`, and a cycling song's `LoopStartTick` is the
first tick of a command of its longest track, before `MaxTicks`; a load error records the track, the offset and the byte there, but for
`AccountLimit`, which records none. That a set is a rising list is log 11, and which offset and byte an error at a target records is
log 7. -/
def Obligations.loaded_ticks_and_recorded_errors : Prop :=
  (∀ (P : Profile) (s : State P) (song : Song) (g : SongTable), load s song = .ok g →
    (∀ (t : TrackId) (p : Nat) (e : Entry), lookupCmd g.cmds[t] p = some e →
      e.ticks.Pairwise (· < ·) ∧ ∀ k ∈ e.ticks, k ≤ g.maxTicks) ∧
      ∀ l, g.loopStartTick = some l →
        l < g.maxTicks ∧ ∃ p e, lookupCmd g.cmds[g.longest] p = some e ∧ e.ticks.head? = some l) ∧
    ∀ (P : Profile) (s : State P) (song : Song) (e : LoadError), load s song = .error (.error e) →
      e = ⟨.accountLimit, none, none, none⟩ ∨
        e.kind ≠ .accountLimit ∧ ∃ t p, e.track = some t ∧ e.offset = some p ∧ e.opcode = song.rom.read p

end
end

