-- ==== Sys2Proof/Laws/Vec.lean ====
section
/-! SUPPORT. The elements of the vectors that `vecMap` and `vecOfFn` build, and the bounds of the arithmetic primitives of R15. -/

namespace Sys2Proof.Machine

@[simp] theorem vecMap_getElem {α β : Type} {n : Nat} (f : α → β) (v : Vector α n) (i : Nat) (h : i < n) :
    (vecMap f v)[i] = f v[i] := by
  simp [vecMap, Vector.getElem_mk]

@[simp] theorem vecOfFn_getElem {β : Type} {n : Nat} (f : Fin n → β) (i : Nat) (h : i < n) :
    (vecOfFn f)[i] = f ⟨i, h⟩ := by
  simp [vecOfFn, Vector.getElem_mk]

theorem vecMap_fin {α β : Type} {n : Nat} (f : α → β) (v : Vector α n) (i : Fin n) : (vecMap f v)[i] = f v[i] := by
  simp [Fin.getElem_fin]

theorem vecOfFn_fin {β : Type} {n : Nat} (f : Fin n → β) (i : Fin n) : (vecOfFn f)[i] = f i := by
  simp [Fin.getElem_fin]

theorem vecMap_toList {α β : Type} {n : Nat} (f : α → β) (v : Vector α n) : (vecMap f v).toList = v.toList.map f := by
  simp [vecMap, Vector.toList]

theorem vec_set_fin {α : Type} {n : Nat} (v : Vector α n) (i j : Fin n) (x : α) :
    (v.set i x)[j] = if i = j then x else v[j] := by
  simp only [Fin.getElem_fin, Vector.getElem_set, Fin.ext_iff]

theorem vec_set_self {α : Type} {n : Nat} (v : Vector α n) (i : Fin n) (x : α) : (v.set i x)[i] = x := by
  simp

theorem vec_set_other {α : Type} {n : Nat} (v : Vector α n) {i j : Fin n} (x : α) (h : i ≠ j) : (v.set i x)[j] = v[j] := by
  rw [vec_set_fin, if_neg h]

theorem clamp_bounds (lo hi x : Int) (h : lo ≤ hi) : lo ≤ clamp lo hi x ∧ clamp lo hi x ≤ hi := by
  unfold clamp; split
  · omega
  · split <;> omega

theorem clampS16_bounds (x : Int) : -32768 ≤ clampS16 x ∧ clampS16 x ≤ 32767 := clamp_bounds _ _ _ (by decide)

theorem clamp_of_mem {lo hi x : Int} (h1 : lo ≤ x) (h2 : x ≤ hi) : clamp lo hi x = x := by
  unfold clamp; split
  · omega
  · split <;> omega

end Sys2Proof.Machine
end

