-- ==== Sys2Proof/Laws/Channels.lean ====
section
/-! SUPPORT. What the channel operations write: release, death, the envelope tick, rendering and the mix buffers (R310 to R320, R384,
R405, R470). -/

namespace Sys2Proof.Machine

variable {P : Profile} (ch : Channel)

/-! ## Release and death (R318, R320) -/

@[simp] theorem Channel.die_state : ch.die.state = .dead := rfl
@[simp] theorem Channel.die_owner : ch.die.owner = none := rfl
@[simp] theorem Channel.die_key : ch.die.key = ch.key := rfl
@[simp] theorem Channel.die_velocity : ch.die.velocity = ch.velocity := rfl
@[simp] theorem Channel.die_durLeft : ch.die.durLeft = ch.durLeft := rfl
@[simp] theorem Channel.die_level : ch.die.level = ch.level := rfl
@[simp] theorem Channel.die_inst : ch.die.inst = ch.inst := rfl
@[simp] theorem Channel.die_pos : ch.die.pos = ch.pos := rfl
@[simp] theorem Channel.die_codec : ch.die.codec = ch.codec := rfl

theorem Channel.sounding_iff : ch.sounding = true ↔ ch.state ≠ .dead ∧ ch.state ≠ .releasing := by
  simp [Channel.sounding]

theorem Channel.live_iff : ch.live = true ↔ ch.state ≠ .dead := by
  simp [Channel.live]

/-- The release trigger enters `Releasing` from the sounding states and changes nothing else. -/
theorem Channel.release_eq : ch.release = { ch with state := if ch.sounding then .releasing else ch.state } := by
  unfold Channel.release; split <;> rfl

@[simp] theorem Channel.release_owner : ch.release.owner = ch.owner := by rw [Channel.release_eq]
@[simp] theorem Channel.release_level : ch.release.level = ch.level := by rw [Channel.release_eq]
@[simp] theorem Channel.release_inst : ch.release.inst = ch.inst := by rw [Channel.release_eq]

theorem Channel.release_dead : ch.release.state = .dead ↔ ch.state = .dead := by
  unfold Channel.release
  split
  · have := (ch.sounding_iff).1 ‹_›
    simp [this.1]
  · rfl

/-! ## One tick (R312 to R319) -/

/-- The countdown writes `durLeft` and, when it ends, `Releasing`. -/
theorem Channel.countdown_eq :
    ch.countdown = { ch with durLeft := ch.countdown.durLeft, state := ch.countdown.state } := by
  unfold Channel.countdown; split <;> rfl

/-- Where the countdown can leave the state: as it was, or `Releasing` from a sounding state. -/
theorem Channel.countdown_state :
    ch.countdown.state = ch.state ∨ (ch.countdown.state = .releasing ∧ ch.sounding = true) := by
  unfold Channel.countdown
  split
  · rename_i h
    by_cases hd : ch.durLeft - 1 = 0
    · exact .inr ⟨by simp [hd], h.2⟩
    · exact .inl (by simp [hd])
  · exact .inl rfl

/-- Everything a step of any envelope law can do: nothing to a dead channel, a new level and a new state, or death. -/
theorem Channel.envStep_cases (law : EnvLaw) :
    (ch.state = .dead ∧ ch.envStep law = ch) ∨
      (∃ l st, ch.state ≠ .dead ∧ st ≠ .dead ∧ law ch.envPoint = (st, l) ∧ ch.envStep law = { ch with level := l, state := st }) ∨
      ∃ l, ch.state ≠ .dead ∧ law ch.envPoint = (.dead, l) ∧ ch.envStep law = { ch with level := l }.die := by
  unfold Channel.envStep
  split
  · exact .inl ⟨‹_›, rfl⟩
  · split
    · exact .inr (.inr ⟨_, ‹_›, Prod.ext ‹_› rfl, rfl⟩)
    · exact .inr (.inl ⟨_, _, ‹_›, ‹_›, rfl, rfl⟩)

/-- The reference law (R312 to R317) answers `Dead` only for a releasing or a dead channel. -/
theorem referenceEnvLaw_dead {x : EnvPoint} (h : (referenceEnvLaw x).1 = .dead) : x.state = .releasing ∨ x.state = .dead := by
  cases hs : x.state <;> simp only [referenceEnvLaw, hs] at h
  · exact absurd h (by unfold attackStep; simp only; split <;> simp)
  · exact absurd h (by unfold attackStep; simp only; split <;> simp)
  · exact absurd h (by unfold decayStep; split <;> simp)
  · cases h
  · exact .inl rfl
  · exact .inr rfl

/-- A level of the reference law stays within 0..255 (R310). -/
theorem referenceEnvLaw_level {x : EnvPoint} (h : x.level ≤ 255) : (referenceEnvLaw x).2 ≤ 255 := by
  have hd : x.level * x.d.toNat / 256 ≤ x.level := Nat.div_le_of_le_mul (by have := x.d.isLt; nlinarith)
  have hr : x.level * x.r.toNat / 256 ≤ x.level := Nat.div_le_of_le_mul (by have := x.r.isLt; nlinarith)
  have hs := x.s.isLt
  unfold referenceEnvLaw
  split
  · exact Nat.min_le_left ..
  · exact Nat.min_le_left ..
  · unfold decayStep; split <;> simp only <;> omega
  · exact h
  · unfold releaseStep; split <;> simp only <;> omega
  · exact h

/-! ## Rendering (R384, R405) -/

/-- Rendering a PCM channel writes its position, its fraction, its codec and, at the end of a non-looping sample, its death. -/
theorem renderPcm_frame (P : Profile) (rom : Memory) (g : Region) :
    (renderPcm P rom g ch).2 =
      { ch with
        pos := (renderPcm P rom g ch).2.pos
        frac := (renderPcm P rom g ch).2.frac
        codec := (renderPcm P rom g ch).2.codec
        state := (renderPcm P rom g ch).2.state
        owner := (renderPcm P rom g ch).2.owner } := by
  unfold renderPcm Channel.endCheck
  simp only
  split
  · split <;> rfl
  · rfl

/-- A channel's state and owner after one output sample: as they were, or dead with no owner. -/
theorem renderChannel_life (P : Profile) (rom : Memory) :
    ((renderChannel P rom ch).2.state = ch.state ∧ (renderChannel P rom ch).2.owner = ch.owner) ∨
      ((renderChannel P rom ch).2.state = .dead ∧ (renderChannel P rom ch).2.owner = none) := by
  unfold renderChannel
  split
  · exact .inl ⟨rfl, rfl⟩
  · split
    · unfold renderPcm Channel.endCheck
      simp only
      split
      · split
        · exact .inl ⟨rfl, rfl⟩
        · exact .inr ⟨rfl, rfl⟩
      · exact .inl ⟨rfl, rfl⟩
    · exact .inl ⟨rfl, rfl⟩
    · exact .inl ⟨rfl, rfl⟩
    · exact .inl ⟨rfl, rfl⟩

/-! ## The ADPCM decoder (R350, R358) -/

/-- Nibble k of a region by division: the low nibble of its byte first. -/
theorem adpcmNibble_eq (rom : Memory) (g : Region) (k : Nat) :
    adpcmNibble rom g k = rom.byteNat (g.addr + 4 + k / 2) / 16 ^ (k % 2) % 16 := by
  have hb : rom.byteNat (g.addr + 4 + k / 2) < 256 := BitVec.isLt _
  unfold adpcmNibble
  split
  · rename_i h; rw [h]; simp
  · have h : k % 2 = 1 := by omega
    rw [h]; omega

/-- One more nibble is decoded after the others. -/
theorem Codec.advanceBy_succ (P : Profile) (rom : Memory) (g : Region) (n : Nat) (q : Codec) :
    Codec.advanceBy P rom g (n + 1) q = (Codec.advanceBy P rom g n q).advance P rom g := by
  induction n generalizing q with
  | zero => rfl
  | succ n ih => rw [Codec.advanceBy, ih]; rfl

/-- Taking the snapshot writes the snapshot only (R357). -/
theorem Codec.trySnapshot_frame (g : Region) (q : Codec) : q.trySnapshot g = { q with snap := (q.trySnapshot g).snap } := by
  unfold Codec.trySnapshot; split <;> rfl

/-! ## The quantum (R470) -/

/-- Every channel takes part in an output sample by itself: a live owned one renders, any other stays. -/
theorem renderChannels_fst (P : Profile) (rom : Memory) (chs : List Channel) (bufs : Buffers) :
    (renderChannels P rom chs bufs).1 =
      chs.map fun ch => if ch.live = true ∧ ch.owner.isSome = true then (renderChannel P rom ch).2 else ch := by
  induction chs generalizing bufs with
  | nil => rfl
  | cons ch rest ih =>
    unfold renderChannels
    split
    · split <;> simp [*]
    · simp [*]

/-- The pairs of a quantum are as many as its output samples. -/
theorem renderSamples_pairs_length (P : Profile) (rom : Memory) (mask : Half) (n : Nat) (chs : List Channel) (fade : Fade) :
    (renderSamples P rom mask n chs fade).2.2.length = n := by
  induction n generalizing chs fade with
  | zero => rfl
  | succ n ih => simp [renderSamples, ih]

theorem withQuantum_next {s t : State P} {k : State P → Result P} (h : withQuantum s k = .next t) :
    (s.mode = .playing ∧ s.channels.toList.all (Channel.renderable s.sampleRom) = true ∧ k s.afterQuantum = .next t) ∨
      (s.mode ≠ .playing ∧ k { s with pcmOut := silentQuantum P } = .next t) := by
  unfold withQuantum at h
  split at h
  · split at h
    · exact .inl ⟨‹_›, ‹_›, h⟩
    · cases h
  · exact .inr ⟨‹_›, h⟩

end Sys2Proof.Machine
end

