-- ==== Sys2Proof/Laws/Decode.lean ====
section
/-! SUPPORT. What each operand reader of the decoder answers on the bytes the encoder writes for its field (30_encoding.md R132, R133). -/

namespace Sys2Proof

variable {α : Type}

@[simp] theorem readByte_nil (k : Byte → List Byte → DecodeResult α) : readByte [] k = .error .outOfBounds := rfl

@[simp] theorem readByte_cons (b : Byte) (r : List Byte) (k : Byte → List Byte → DecodeResult α) : readByte (b :: r) k = k b r := rfl

theorem readHalf_cons (b0 b1 : Byte) (r : List Byte) (k : Half → List Byte → DecodeResult α) :
    readHalf (b0 :: b1 :: r) k = k (leHalf b0 b1) r := rfl

theorem readOff_cons (b0 b1 b2 : Byte) (r : List Byte) (k : Off24 → List Byte → DecodeResult α) :
    readOff (b0 :: b1 :: b2 :: r) k = k (leOff b0 b1 b2) r := rfl

/-- A `u16` field reads back as it was written (R107, R132). -/
theorem readHalf_halfBytes (x : Half) (r : List Byte) (k : Half → List Byte → DecodeResult α) :
    readHalf (halfBytes x ++ r) k = k x r := by
  have h : leHalf (BitVec.ofNat 8 x.toNat) (BitVec.ofNat 8 (x.toNat / 256)) = x := by
    have hx := x.isLt
    apply BitVec.eq_of_toNat_eq
    simp only [leHalf, BitVec.toNat_ofNat]
    omega
  show readHalf (_ :: _ :: r) k = k x r
  rw [readHalf_cons, h]

/-- A `u24` field reads back as it was written (R107, R132). -/
theorem readOff_offBytes (x : Off24) (r : List Byte) (k : Off24 → List Byte → DecodeResult α) :
    readOff (offBytes x ++ r) k = k x r := by
  have h : leOff (BitVec.ofNat 8 x.toNat) (BitVec.ofNat 8 (x.toNat / 256)) (BitVec.ofNat 8 (x.toNat / 65536)) = x := by
    have hx := x.isLt
    apply BitVec.eq_of_toNat_eq
    simp only [leOff, BitVec.toNat_ofNat]
    omega
  show readOff (_ :: _ :: _ :: r) k = k x r
  rw [readOff_cons, h]

/-! ## Formats (R136) -/

@[simp] theorem readFields_nil (bs : List Byte) (k : List Int → List Byte → DecodeResult α) : readFields [] bs k = k [] bs := rfl

@[simp] theorem readFields_cons (f : Field) (fs : List Field) (bs : List Byte) (k : List Int → List Byte → DecodeResult α) :
    readFields (f :: fs) bs k = readField f bs fun v r => readFields fs r fun vs r' => k (v :: vs) r' := rfl

@[simp] theorem readFormat_nil (ok : Int → Bool) (bs : List Byte) (k : List Int → List Byte → DecodeResult α) :
    readFormat ok [] bs k = k [] bs := rfl

@[simp] theorem readFormat_cons (ok : Int → Bool) (f : Field) (fs : List Field) (bs : List Byte)
    (k : List Int → List Byte → DecodeResult α) :
    readFormat ok (f :: fs) bs k =
      readField f bs fun v r => if ok v then readFields fs r fun vs r' => k (v :: vs) r' else .error .badOperand := rfl

/-! ## Fields (R132) -/

variable (r : List Byte) (k : Int → List Byte → DecodeResult α)

theorem readField_u8 (x : Byte) : readField .u8 (x :: r) k = k x.toNat r := rfl

theorem readField_s8 (x : Byte) : readField .s8 (x :: r) k = k x.toInt r := rfl

theorem readField_u16 (x : Half) : readField .u16 (halfBytes x ++ r) k = k x.toNat r :=
  readHalf_halfBytes x r fun y r => k y.toNat r

theorem readField_s16 (x : Half) : readField .s16 (halfBytes x ++ r) k = k x.toInt r :=
  readHalf_halfBytes x r fun y r => k y.toInt r

theorem readField_u24 (x : Off24) : readField .u24 (offBytes x ++ r) k = k x.toNat r :=
  readOff_offBytes x r fun y r => k y.toNat r

/-- What a control byte of a map decodes to, by its entry (R136). -/
theorem decodeControl_entry {D : DecodeProfile} {op : Byte} {e : CtrlEntry} (h : D.ctrlMap op = some e) (hf : e.fits = true)
    (bs : List Byte) :
    decodeControl D op bs =
      readFormat (e.kind.firstOk D.numTracks) e.format bs fun vs r =>
        match e.kind.build vs with
        | none => .error .unknownOpcode
        | some i => accept D.strictVarops i r := by
  unfold decodeControl
  rw [h]
  exact if_pos hf

/-- A control byte without an entry, or with one whose format does not fit its kind, is `UnknownOpcode` (R136; log 25). -/
theorem decodeControl_unknown {D : DecodeProfile} {op : Byte} (h : ∀ e, D.ctrlMap op = some e → e.fits = false) (bs : List Byte) :
    decodeControl D op bs = .error .unknownOpcode := by
  unfold decodeControl
  split
  · rfl
  · rw [if_neg (by simp [h _ ‹_›])]

/-- Every entry of the reference map fits its kind (R131, R140). -/
theorem referenceCtrlMap_fits {op : Byte} {e : CtrlEntry} (h : referenceCtrlMap op = some e) : e.fits = true := by
  unfold referenceCtrlMap at h
  split at h <;> cases h <;> rfl

/-- The last group of a variable-length quantity (R133). -/
theorem vlqLoop_last (groups v n : Nat) (h : n < 128) (r : List Byte) :
    vlqLoop (groups + 1) v (BitVec.ofNat 8 n :: r) = .ok (v * 128 + n, r) := by
  have hb : (BitVec.ofNat 8 n).toNat = n := by simp only [BitVec.toNat_ofNat]; omega
  simp only [vlqLoop, readByte_cons, hb, if_pos h]

/-- A continuation group of a variable-length quantity (R133). -/
theorem vlqLoop_more (groups v n : Nat) (h : n < 128) (r : List Byte) :
    vlqLoop (groups + 1) v (BitVec.ofNat 8 (128 + n) :: r) = vlqLoop groups (v * 128 + n) r := by
  have hb : (BitVec.ofNat 8 (128 + n)).toNat = 128 + n := by simp only [BitVec.toNat_ofNat]; omega
  have hm : (128 + n) % 128 = n := by omega
  simp only [vlqLoop, readByte_cons, hb, hm, if_neg (by omega : ¬ (128 + n < 128))]

/-- A variable-length quantity reads back as it was written in its shortest form (R133). -/
theorem readVlq_encodeVlq {n : Nat} (h : n < 268435456) (r : List Byte) (k : Nat → List Byte → DecodeResult α) :
    readVlq (encodeVlq n ++ r) k = k n r := by
  have key : vlqLoop 4 0 (encodeVlq n ++ r) = .ok (n, r) := by
    unfold encodeVlq
    split
    · simpa using vlqLoop_last 3 0 n ‹_› r
    · split
      · show vlqLoop 4 0 (_ :: _ :: r) = _
        rw [vlqLoop_more 3 0 (n / 128) (by omega), vlqLoop_last 2 _ (n % 128) (by omega)]
        congr 2; omega
      · split
        · show vlqLoop 4 0 (_ :: _ :: _ :: r) = _
          rw [vlqLoop_more 3 0 (n / 16384) (by omega), vlqLoop_more 2 _ (n / 128 % 128) (by omega),
            vlqLoop_last 1 _ (n % 128) (by omega)]
          congr 2; omega
        · show vlqLoop 4 0 (_ :: _ :: _ :: _ :: r) = _
          rw [vlqLoop_more 3 0 (n / 2097152 % 128) (by omega), vlqLoop_more 2 _ (n / 16384 % 128) (by omega),
            vlqLoop_more 1 _ (n / 128 % 128) (by omega), vlqLoop_last 0 _ (n % 128) (by omega)]
          congr 2; omega
  simp only [readVlq, key]

theorem readField_vlq {n : Nat} (h : n < 268435456) : readField .vlq (encodeVlq n ++ r) k = k n r :=
  readVlq_encodeVlq h r fun m r => k m r

/-! ## Operands (R131, R137) -/

/-- A signed field gives a bit-vector operand of any width the value's two's complement (R107, R132). -/
theorem ofInt_signed {w : Nat} (v : Nat) (x : BitVec w) : BitVec.ofInt v x.toInt = x.signExtend v := rfl

/-- A field of the operand's own width gives the operand its bits, signed or not. -/
theorem ofInt_unsigned {w : Nat} (x : BitVec w) : BitVec.ofInt w x.toNat = x := by simp

theorem quantity_lt (v : Int) : quantity v < 268435456 := by
  unfold quantity; omega

theorem quantity_of_lt {n : Nat} (h : n < 268435456) : quantity n = n := by
  unfold quantity; omega

/-- The shortest form has one to four bytes (R133). -/
theorem encodeVlq_length (n : Nat) : 1 ≤ (encodeVlq n).length ∧ (encodeVlq n).length ≤ 4 := by
  unfold encodeVlq
  split <;> [skip; split <;> [skip; split]] <;> simp

/-- Whatever the values of the operands, a command built of them is well formed if its first one lies in the range of R137. -/
theorem build_wellFormed {kind : CmdKind} {vs : List Int} {i : Instr} {tracks : Nat} (h : kind.build vs = some i)
    (hk : ∀ v r, vs = v :: r → kind.firstOk tracks v = true) : i.WellFormed := by
  have q := quantity_lt
  rcases vs with _ | ⟨a, _ | ⟨b, _ | ⟨c, _ | ⟨d, e⟩⟩⟩⟩ <;> cases kind <;>
    simp only [CmdKind.build, build0, build1, build2, build3, Option.some.injEq, reduceCtorEq] at h <;> subst h <;>
    first
    | rfl
    | (have := hk _ _ rfl
       simp [CmdKind.firstOk] at this
       simp [Instr.WellFormed, Instr.wellFormed, keyOk, vlqOk, q]
       try omega)

/-! ## What a field can answer -/

/-- A variable-length quantity that reads takes one to `groups` bytes and multiplies what was read by 128 for each of them (R133). -/
theorem vlqLoop_ok {groups v m : Nat} {bs r : List Byte} (h : vlqLoop groups v bs = .ok (m, r)) :
    r.length < bs.length ∧ bs.length ≤ r.length + groups ∧ m < (v + 1) * 128 ^ groups := by
  induction groups generalizing v bs with
  | zero => cases h
  | succ g ih =>
    cases bs with
    | nil => cases h
    | cons b bs =>
      simp only [vlqLoop, readByte_cons] at h
      have hp : 1 ≤ 128 ^ g := Nat.one_le_pow _ _ (by omega)
      have he : 128 ^ (g + 1) = 128 * 128 ^ g := by rw [Nat.pow_succ, Nat.mul_comm]
      split at h
      · cases h
        exact ⟨by simp, by simp, by rw [he]; nlinarith⟩
      · obtain ⟨h1, h2, h3⟩ := ih h
        refine ⟨by simp; omega, by simp; omega, h3.trans_le ?_⟩
        rw [he, ← Nat.mul_assoc]
        exact Nat.mul_le_mul_right _ (by omega)

/-- Everything a field that reads can do: it goes on with some value and one to four bytes fewer (R132, R133). -/
theorem readField_ok {f : Field} {bs : List Byte} {a : α} {k : Int → List Byte → DecodeResult α} (h : readField f bs k = .ok a) :
    ∃ v r, k v r = .ok a ∧ r.length < bs.length ∧ bs.length ≤ r.length + 4 := by
  cases f
  case vlq =>
    unfold readField readVlq at h
    simp only at h
    split at h
    · cases h
    · obtain ⟨h1, h2, _⟩ := vlqLoop_ok ‹_›
      exact ⟨_, _, h, h1, h2⟩
  all_goals
    rcases bs with _ | ⟨b0, _ | ⟨b1, _ | ⟨b2, r⟩⟩⟩ <;>
      first
      | exact ⟨_, _, h, by simp; try omega, by simp; try omega⟩
      | cases h

end Sys2Proof
end

