-- ==== Sys2Proof/Laws/Load.lean ====
section
/-! SUPPORT. The operations of the accounting pass in closed form: what `CycleKnown` tests, that the tracks are taken in order, and when the
pass is over (40_sequence_decoder.md R192, R193, R197). -/

namespace Sys2Proof.Machine

variable {P : Profile}

/-- `CycleKnown` (R193): the stack holds endless loops only. -/
theorem cycleKnown_iff (stack : List StackEntry) : cycleKnown stack = true ↔ ∀ y ∈ stack, ∃ body, y = .loop body 0 := by
  induction stack with
  | nil => simp [cycleKnown]
  | cons y rest ih => cases y <;> simp [cycleKnown, ih]

/-- The tracks of a list are taken in its order, the first error ending it (R192). -/
theorem overTracks_eq_foldlM (f : TrackId → Acct P → Except LoadStop (Acct P)) (ts : List TrackId) (a : Acct P) :
    overTracks f ts a = ts.foldlM (fun b t => f t b) a := by
  induction ts generalizing a with
  | nil => rfl
  | cons t ts ih =>
    unfold overTracks
    rw [List.foldlM_cons]
    cases f t a with
    | ok b => simp only [ih]; rfl
    | error e => rfl

theorem Acct.allDone_iff (a : Acct P) : a.allDone = true ↔ ∀ t : TrackId, a.done[t] = true := by
  unfold Acct.allDone
  rw [List.all_eq_true]
  constructor
  · intro h t
    exact h _ (by simp)
  · intro h x hx
    rw [Vector.mem_toList_iff, Vector.mem_iff_getElem] at hx
    obtain ⟨i, hi, rfl⟩ := hx
    exact h ⟨i, hi⟩

end Sys2Proof.Machine
end

