-- ==== Sys2Proof/Laws/State.lean ====
section
/-! SUPPORT. One lemma per field per state update, true by rfl, and the elements of the updated track files and channel pool. -/

namespace Sys2Proof.Machine

variable {P : Profile}

variable (s : State P) (t : TrackId) (x : Track) (c : P.Chan) (ch : Channel) (f : Channel → Channel)

/-! ## setTrack -/

@[simp] theorem State.setTrack_hostQueue : (s.setTrack t x).hostQueue = s.hostQueue := rfl
@[simp] theorem State.setTrack_muteMask : (s.setTrack t x).muteMask = s.muteMask := rfl
@[simp] theorem State.setTrack_seqRom : (s.setTrack t x).seqRom = s.seqRom := rfl
@[simp] theorem State.setTrack_trackStarts : (s.setTrack t x).trackStarts = s.trackStarts := rfl
@[simp] theorem State.setTrack_bank : (s.setTrack t x).bank = s.bank := rfl
@[simp] theorem State.setTrack_sampleRom : (s.setTrack t x).sampleRom = s.sampleRom := rfl
@[simp] theorem State.setTrack_mode : (s.setTrack t x).mode = s.mode := rfl
@[simp] theorem State.setTrack_tempo : (s.setTrack t x).tempo = s.tempo := rfl
@[simp] theorem State.setTrack_tempoStack : (s.setTrack t x).tempoStack = s.tempoStack := rfl
@[simp] theorem State.setTrack_elapsed : (s.setTrack t x).elapsed = s.elapsed := rfl
@[simp] theorem State.setTrack_loopCount : (s.setTrack t x).loopCount = s.loopCount := rfl
@[simp] theorem State.setTrack_fade : (s.setTrack t x).fade = s.fade := rfl
@[simp] theorem State.setTrack_loadStatus : (s.setTrack t x).loadStatus = s.loadStatus := rfl
@[simp] theorem State.setTrack_seeking : (s.setTrack t x).seeking = s.seeking := rfl
@[simp] theorem State.setTrack_song : (s.setTrack t x).song = s.song := rfl
@[simp] theorem State.setTrack_tracks : (s.setTrack t x).tracks = s.tracks.set t x := rfl
@[simp] theorem State.setTrack_channels : (s.setTrack t x).channels = s.channels := rfl
@[simp] theorem State.setTrack_pcmOut : (s.setTrack t x).pcmOut = s.pcmOut := rfl
@[simp] theorem State.setTrack_telemetry : (s.setTrack t x).telemetry = s.telemetry := rfl
@[simp] theorem State.setTrack_taken : (s.setTrack t x).taken = s.taken := rfl
@[simp] theorem State.setTrack_phase : (s.setTrack t x).phase = s.phase := rfl
@[simp] theorem State.setTrack_cur : (s.setTrack t x).cur = s.cur := rfl

/-! ## mapChannels -/

@[simp] theorem State.mapChannels_hostQueue : (s.mapChannels f).hostQueue = s.hostQueue := rfl
@[simp] theorem State.mapChannels_muteMask : (s.mapChannels f).muteMask = s.muteMask := rfl
@[simp] theorem State.mapChannels_seqRom : (s.mapChannels f).seqRom = s.seqRom := rfl
@[simp] theorem State.mapChannels_trackStarts : (s.mapChannels f).trackStarts = s.trackStarts := rfl
@[simp] theorem State.mapChannels_bank : (s.mapChannels f).bank = s.bank := rfl
@[simp] theorem State.mapChannels_sampleRom : (s.mapChannels f).sampleRom = s.sampleRom := rfl
@[simp] theorem State.mapChannels_mode : (s.mapChannels f).mode = s.mode := rfl
@[simp] theorem State.mapChannels_tempo : (s.mapChannels f).tempo = s.tempo := rfl
@[simp] theorem State.mapChannels_tempoStack : (s.mapChannels f).tempoStack = s.tempoStack := rfl
@[simp] theorem State.mapChannels_elapsed : (s.mapChannels f).elapsed = s.elapsed := rfl
@[simp] theorem State.mapChannels_loopCount : (s.mapChannels f).loopCount = s.loopCount := rfl
@[simp] theorem State.mapChannels_fade : (s.mapChannels f).fade = s.fade := rfl
@[simp] theorem State.mapChannels_loadStatus : (s.mapChannels f).loadStatus = s.loadStatus := rfl
@[simp] theorem State.mapChannels_seeking : (s.mapChannels f).seeking = s.seeking := rfl
@[simp] theorem State.mapChannels_song : (s.mapChannels f).song = s.song := rfl
@[simp] theorem State.mapChannels_tracks : (s.mapChannels f).tracks = s.tracks := rfl
@[simp] theorem State.mapChannels_channels : (s.mapChannels f).channels = vecMap f s.channels := rfl
@[simp] theorem State.mapChannels_pcmOut : (s.mapChannels f).pcmOut = s.pcmOut := rfl
@[simp] theorem State.mapChannels_telemetry : (s.mapChannels f).telemetry = s.telemetry := rfl
@[simp] theorem State.mapChannels_taken : (s.mapChannels f).taken = s.taken := rfl
@[simp] theorem State.mapChannels_phase : (s.mapChannels f).phase = s.phase := rfl
@[simp] theorem State.mapChannels_cur : (s.mapChannels f).cur = s.cur := rfl

/-! ## setChannel -/

@[simp] theorem State.setChannel_hostQueue : (s.setChannel c ch).hostQueue = s.hostQueue := rfl
@[simp] theorem State.setChannel_muteMask : (s.setChannel c ch).muteMask = s.muteMask := rfl
@[simp] theorem State.setChannel_seqRom : (s.setChannel c ch).seqRom = s.seqRom := rfl
@[simp] theorem State.setChannel_trackStarts : (s.setChannel c ch).trackStarts = s.trackStarts := rfl
@[simp] theorem State.setChannel_bank : (s.setChannel c ch).bank = s.bank := rfl
@[simp] theorem State.setChannel_sampleRom : (s.setChannel c ch).sampleRom = s.sampleRom := rfl
@[simp] theorem State.setChannel_mode : (s.setChannel c ch).mode = s.mode := rfl
@[simp] theorem State.setChannel_tempo : (s.setChannel c ch).tempo = s.tempo := rfl
@[simp] theorem State.setChannel_tempoStack : (s.setChannel c ch).tempoStack = s.tempoStack := rfl
@[simp] theorem State.setChannel_elapsed : (s.setChannel c ch).elapsed = s.elapsed := rfl
@[simp] theorem State.setChannel_loopCount : (s.setChannel c ch).loopCount = s.loopCount := rfl
@[simp] theorem State.setChannel_fade : (s.setChannel c ch).fade = s.fade := rfl
@[simp] theorem State.setChannel_loadStatus : (s.setChannel c ch).loadStatus = s.loadStatus := rfl
@[simp] theorem State.setChannel_seeking : (s.setChannel c ch).seeking = s.seeking := rfl
@[simp] theorem State.setChannel_song : (s.setChannel c ch).song = s.song := rfl
@[simp] theorem State.setChannel_tracks : (s.setChannel c ch).tracks = s.tracks := rfl
@[simp] theorem State.setChannel_channels : (s.setChannel c ch).channels = s.channels.set c ch := rfl
@[simp] theorem State.setChannel_pcmOut : (s.setChannel c ch).pcmOut = s.pcmOut := rfl
@[simp] theorem State.setChannel_telemetry : (s.setChannel c ch).telemetry = s.telemetry := rfl
@[simp] theorem State.setChannel_taken : (s.setChannel c ch).taken = s.taken := rfl
@[simp] theorem State.setChannel_phase : (s.setChannel c ch).phase = s.phase := rfl
@[simp] theorem State.setChannel_cur : (s.setChannel c ch).cur = s.cur := rfl

/-! ## Elements -/

theorem State.setTrack_at (u : TrackId) : (s.setTrack t x).tracks[u] = if t = u then x else s.tracks[u] := vec_set_fin ..

theorem State.setChannel_at (d : P.Chan) : (s.setChannel c ch).channels[d] = if c = d then ch else s.channels[d] := vec_set_fin ..

theorem State.mapChannels_at (d : P.Chan) : (s.mapChannels f).channels[d] = f s.channels[d] := vecMap_fin ..

@[simp] theorem State.setTrack_track : (s.setTrack s.cur x).track = x := by
  simp [State.track]

/-! ## What the operations over the song table read -/

@[simp] theorem State.setTrack_entryAt (u : TrackId) (p : Nat) : (s.setTrack t x).entryAt u p = s.entryAt u p := rfl
@[simp] theorem State.mapChannels_entryAt (u : TrackId) (p : Nat) : (s.mapChannels f).entryAt u p = s.entryAt u p := rfl
@[simp] theorem State.setChannel_entryAt (u : TrackId) (p : Nat) : (s.setChannel c ch).entryAt u p = s.entryAt u p := rfl
@[simp] theorem State.mapChannels_fetch : (s.mapChannels f).fetch = s.fetch := rfl
@[simp] theorem State.setChannel_fetch : (s.setChannel c ch).fetch = s.fetch := rfl
@[simp] theorem State.mapChannels_track : (s.mapChannels f).track = s.track := rfl
@[simp] theorem State.setChannel_track : (s.setChannel c ch).track = s.track := rfl
@[simp] theorem State.setTrack_maxTicks : (s.setTrack t x).maxTicks = s.maxTicks := rfl
@[simp] theorem State.mapChannels_maxTicks : (s.mapChannels f).maxTicks = s.maxTicks := rfl
@[simp] theorem State.setTrack_longest : (s.setTrack t x).longest = s.longest := rfl
@[simp] theorem State.mapChannels_longest : (s.mapChannels f).longest = s.longest := rfl
@[simp] theorem State.setChannel_longest : (s.setChannel c ch).longest = s.longest := rfl
@[simp] theorem State.setTrack_loopStartTick : (s.setTrack t x).loopStartTick = s.loopStartTick := rfl
@[simp] theorem State.mapChannels_loopStartTick : (s.mapChannels f).loopStartTick = s.loopStartTick := rfl

/-! ## rewind and stopAll (R271, R503) -/

@[simp] theorem State.rewind_song : s.rewind.song = s.song := rfl
@[simp] theorem State.rewind_elapsed : s.rewind.elapsed = 0 := rfl
@[simp] theorem State.rewind_tempoStack : s.rewind.tempoStack = 0 := rfl
@[simp] theorem State.rewind_seeking : s.rewind.seeking = s.seeking := rfl
@[simp] theorem State.rewind_phase : s.rewind.phase = s.phase := rfl
@[simp] theorem State.rewind_mode : s.rewind.mode = s.mode := rfl
@[simp] theorem State.rewind_pcmOut : s.rewind.pcmOut = s.pcmOut := rfl
@[simp] theorem State.rewind_seqRom : s.rewind.seqRom = s.seqRom := rfl
@[simp] theorem State.rewind_sampleRom : s.rewind.sampleRom = s.sampleRom := rfl
@[simp] theorem State.rewind_hostQueue : s.rewind.hostQueue = s.hostQueue := rfl
@[simp] theorem State.rewind_taken : s.rewind.taken = s.taken := rfl
@[simp] theorem State.stopAll_song : s.stopAll.song = s.song := rfl
@[simp] theorem State.stopAll_elapsed : s.stopAll.elapsed = 0 := rfl
@[simp] theorem State.stopAll_tempoStack : s.stopAll.tempoStack = 0 := rfl
@[simp] theorem State.stopAll_seeking : s.stopAll.seeking = s.seeking := rfl
@[simp] theorem State.stopAll_phase : s.stopAll.phase = s.phase := rfl
@[simp] theorem State.stopAll_pcmOut : s.stopAll.pcmOut = s.pcmOut := rfl
@[simp] theorem State.stopAll_seqRom : s.stopAll.seqRom = s.seqRom := rfl
@[simp] theorem State.stopAll_sampleRom : s.stopAll.sampleRom = s.sampleRom := rfl
@[simp] theorem State.stopAll_hostQueue : s.stopAll.hostQueue = s.hostQueue := rfl
@[simp] theorem State.stopAll_taken : s.stopAll.taken = s.taken := rfl
@[simp] theorem State.rewind_muteMask : s.rewind.muteMask = s.muteMask := rfl
@[simp] theorem State.rewind_trackStarts : s.rewind.trackStarts = s.trackStarts := rfl
@[simp] theorem State.rewind_bank : s.rewind.bank = s.bank := rfl
@[simp] theorem State.rewind_loadStatus : s.rewind.loadStatus = s.loadStatus := rfl
@[simp] theorem State.rewind_telemetry : s.rewind.telemetry = s.telemetry := rfl
@[simp] theorem State.rewind_cur : s.rewind.cur = s.cur := rfl
@[simp] theorem State.rewind_tempo : s.rewind.tempo = P.tempoReset := rfl
@[simp] theorem State.rewind_loopCount : s.rewind.loopCount = 0 := rfl
@[simp] theorem State.rewind_fade : s.rewind.fade = .none := rfl
@[simp] theorem State.rewind_tracks : s.rewind.tracks = vecMap Track.reset s.startTable := rfl
@[simp] theorem State.rewind_channels : s.rewind.channels = vecMap Channel.die s.channels := rfl
@[simp] theorem State.stopAll_muteMask : s.stopAll.muteMask = s.muteMask := rfl
@[simp] theorem State.stopAll_trackStarts : s.stopAll.trackStarts = s.trackStarts := rfl
@[simp] theorem State.stopAll_bank : s.stopAll.bank = s.bank := rfl
@[simp] theorem State.stopAll_loadStatus : s.stopAll.loadStatus = s.loadStatus := rfl
@[simp] theorem State.stopAll_telemetry : s.stopAll.telemetry = s.telemetry := rfl
@[simp] theorem State.stopAll_cur : s.stopAll.cur = s.cur := rfl
@[simp] theorem State.stopAll_tempo : s.stopAll.tempo = P.tempoReset := rfl
@[simp] theorem State.stopAll_loopCount : s.stopAll.loopCount = 0 := rfl
@[simp] theorem State.stopAll_fade : s.stopAll.fade = .none := rfl
@[simp] theorem State.stopAll_tracks : s.stopAll.tracks = vecMap Track.reset s.startTable := rfl
@[simp] theorem State.stopAll_channels : s.stopAll.channels = vecMap Channel.die s.channels := rfl
theorem State.stopAll_mode : s.stopAll.mode = if s.song.isSome then .stopped else .noSong := rfl

theorem State.rewind_channel (d : P.Chan) : s.rewind.channels[d] = s.channels[d].die := vecMap_fin ..

theorem State.rewind_track (u : TrackId) : s.rewind.tracks[u] = Track.reset s.startTable[u] := vecMap_fin ..

theorem State.stopAll_channel (d : P.Chan) : s.stopAll.channels[d] = s.channels[d].die := vecMap_fin ..

theorem State.stopAll_track (u : TrackId) : s.stopAll.tracks[u] = Track.reset s.startTable[u] := vecMap_fin ..

end Sys2Proof.Machine
end

