-- ==== Sys2Proof/Laws/Memory.lean ====
section
/-! SUPPORT. The byte spaces keep their canonical form under every memory operation, and read as they were written (20_memory.md R100,
R105, R107). -/

namespace Sys2Proof.Machine

/-! ## The canonical form -/

theorem cellsWf_cons (lo len a : Nat) (b : Byte) (cs : List Host.Cell) :
    cellsWf lo len ((a, b) :: cs) = true ↔ lo ≤ a ∧ a < len ∧ b ≠ unlistedByte ∧ cellsWf (a + 1) len cs = true := by
  simp [cellsWf, and_assoc]

theorem cellsWf_mono {lo lo' len : Nat} {cs : List Host.Cell} (h : cellsWf lo len cs = true) (hle : lo' ≤ lo) :
    cellsWf lo' len cs = true := by
  cases cs with
  | nil => rfl
  | cons c cs =>
    rw [cellsWf_cons] at h ⊢
    exact ⟨by omega, h.2⟩

theorem setCell_wf {lo len x : Nat} {b : Byte} {cs : List Host.Cell} (h : cellsWf lo len cs = true) (hlo : lo ≤ x) (hx : x < len) :
    cellsWf lo len (setCell cs x b) = true := by
  induction cs generalizing lo with
  | nil =>
    unfold setCell; split
    · rfl
    · exact (cellsWf_cons ..).2 ⟨hlo, hx, ‹_›, rfl⟩
  | cons c cs ih =>
    obtain ⟨a, d⟩ := c
    have h' := (cellsWf_cons ..).1 h
    unfold setCell; split
    · split
      · exact h
      · exact (cellsWf_cons ..).2 ⟨hlo, hx, ‹_›, (cellsWf_cons ..).2 ⟨by omega, h'.2⟩⟩
    · split
      · split
        · exact cellsWf_mono h'.2.2.2 (by omega)
        · exact (cellsWf_cons ..).2 ⟨hlo, hx, ‹_›, by subst x; exact h'.2.2.2⟩
      · exact (cellsWf_cons ..).2 ⟨h'.1, h'.2.1, h'.2.2.1, ih h'.2.2.2 (by omega)⟩

theorem cellsOf_wf (bs : List Byte) (a len : Nat) (h : a + bs.length ≤ len) : cellsWf a len (cellsOf a bs) = true := by
  induction bs generalizing a with
  | nil => rfl
  | cons b bs ih =>
    have hrest : cellsWf (a + 1) len (cellsOf (a + 1) bs) = true := ih (a + 1) (by simp at h; omega)
    unfold cellsOf; split
    · exact cellsWf_mono hrest (by omega)
    · exact (cellsWf_cons ..).2 ⟨Nat.le_refl _, by simp at h; omega, ‹_›, hrest⟩

theorem Memory.empty_wf : Memory.empty.wf = true := rfl

theorem Memory.store_wf {m : Memory} (a : Nat) (b : Byte) (h : m.wf = true) : (m.store a b).wf = true := by
  unfold Memory.store; split
  · exact setCell_wf h (Nat.zero_le _) ‹_›
  · exact h

theorem Memory.ofBytes_wf (bs : List Byte) : (Memory.ofBytes bs).wf = true := cellsOf_wf bs 0 bs.length (by simp)

theorem reset_memoryWf : State.reset.seqRom.wf = true ∧ State.reset.sampleRom.wf = true := ⟨rfl, rfl⟩

/-! ## Reading what was written -/

theorem cellAt_below {lo len x : Nat} {cs : List Host.Cell} (h : cellsWf lo len cs = true) (hx : x < lo) :
    cellAt cs x = unlistedByte := by
  induction cs generalizing lo with
  | nil => rfl
  | cons c cs ih =>
    obtain ⟨a, b⟩ := c
    have h' := (cellsWf_cons ..).1 h
    unfold cellAt
    rw [if_neg (by omega)]
    exact ih h'.2.2.2 (by omega)

theorem cellAt_setCell {lo len x : Nat} {b : Byte} {cs : List Host.Cell} (h : cellsWf lo len cs = true) (y : Nat) :
    cellAt (setCell cs x b) y = if x = y then b else cellAt cs y := by
  induction cs generalizing lo with
  | nil =>
    by_cases hb : b = unlistedByte
    · simp [setCell, cellAt, hb]
    · simp [setCell, cellAt, hb]
  | cons c cs ih =>
    obtain ⟨a, d⟩ := c
    have h' := (cellsWf_cons ..).1 h
    unfold setCell; split
    · have hlow : cellAt ((a, d) :: cs) x = unlistedByte := cellAt_below (lo := a) ((cellsWf_cons ..).2 ⟨Nat.le_refl _, h'.2⟩) ‹_›
      split
      · by_cases hxy : x = y
        · subst hxy; simp [*]
        · simp [hxy]
      · rfl
    · split
      · have hlow : cellAt cs x = unlistedByte := cellAt_below h'.2.2.2 (by omega)
        subst x
        split
        · by_cases hay : a = y
          · subst hay; simp [*]
          · simp [hay, cellAt]
        · by_cases hay : a = y <;> simp [cellAt, hay]
      · by_cases hay : a = y
        · have : x ≠ y := by omega
          simp [cellAt, hay, this]
        · simp [cellAt, hay, ih h'.2.2.2]

/-- A byte reads as it was last written. -/
theorem Memory.read_store_same {m : Memory} {a : Nat} (b : Byte) (h : m.wf = true) (ha : a < m.len) : (m.store a b).read a = some b := by
  simp [Memory.store, Memory.read, ha, cellAt_setCell h]

/-- A write leaves every other byte as it was. -/
theorem Memory.read_store_other {m : Memory} {a x : Nat} (b : Byte) (h : m.wf = true) (hx : a ≠ x) :
    (m.store a b).read x = m.read x := by
  unfold Memory.store; split
  · simp [Memory.read, cellAt_setCell h, hx]
  · rfl

/-- A write does not change the length. -/
theorem Memory.store_len (m : Memory) (a : Nat) (b : Byte) : (m.store a b).len = m.len := by
  unfold Memory.store; split <;> rfl

/-- What is past the length does not exist (R100, R105). -/
theorem Memory.read_none {m : Memory} {a : Nat} : m.read a = none ↔ m.len ≤ a := by
  unfold Memory.read; split <;> simp <;> omega

theorem cellAt_cellsOf (bs : List Byte) (a i : Nat) : cellAt (cellsOf a bs) (a + i) = bs.getD i unlistedByte := by
  induction bs generalizing a i with
  | nil => rfl
  | cons b bs ih =>
    have hstep : ∀ j, cellAt (cellsOf (a + 1) bs) (a + (j + 1)) = bs.getD j unlistedByte := fun j => by
      rw [← ih (a + 1) j]; congr 1; omega
    have hlow : cellAt (cellsOf (a + 1) bs) a = unlistedByte :=
      cellAt_below (lo := a + 1) (cellsOf_wf bs (a + 1) (a + 1 + bs.length) (by omega)) (by omega)
    unfold cellsOf
    cases i with
    | zero => split <;> simp_all [cellAt]
    | succ j =>
      split
      · simpa using hstep j
      · simpa [cellAt] using hstep j

/-- The space the loader makes of some bytes reads as those bytes. -/
theorem Memory.read_ofBytes (bs : List Byte) (i : Nat) : (Memory.ofBytes bs).read i = bs[i]? := by
  have := cellAt_cellsOf bs 0 i
  simp only [Nat.zero_add] at this
  unfold Memory.read Memory.ofBytes
  simp only [this]
  split
  · rename_i h; rw [List.getD_eq_getElem?_getD, List.getElem?_eq_getElem h]; rfl
  · rename_i h; exact (List.getElem?_eq_none (by omega)).symm

end Sys2Proof.Machine
end

