-- ==== Sys2Proof/Laws/Ops.lean ====
section
/-! SUPPORT. One lemma for each shared operation of the meanings, saying once what it answers: `withLen`, `retire`, `bankLookup`,
`allocate`, `startVoice`, `noteOn`, `withGains`. -/

namespace Sys2Proof.Machine

variable {P : Profile}

/-! ## Retiring a command (R220) -/

theorem withLen_of_fetch {s : State P} {e : Entry} (h : s.fetch = some e) (k : Nat → Result P) : withLen s k = k e.len := by
  simp only [withLen, h]

theorem withLen_next {s t : State P} {k : Nat → Result P} (h : withLen s k = .next t) : ∃ e, s.fetch = some e ∧ k e.len = .next t := by
  unfold withLen at h
  split at h
  · cases h
  · exact ⟨_, ‹_›, h⟩

theorem withLen_not_refused {s : State P} {k : Nat → Result P} {r : Refusal} (hk : ∀ n, k n ≠ .refused r) : withLen s k ≠ .refused r := by
  unfold withLen
  split
  · simp
  · exact hk _

theorem retire_of_fetch {s : State P} {e : Entry} (h : s.fetch = some e) (f : Track → Track) :
    retire s f = .next (s.setTrack s.cur { f s.track with cursor := s.track.cursor + e.len }) := by
  simp only [retire, withLen_of_fetch h]

theorem retire_next {s t : State P} {f : Track → Track} (h : retire s f = .next t) :
    ∃ e, s.fetch = some e ∧ t = s.setTrack s.cur { f s.track with cursor := s.track.cursor + e.len } := by
  obtain ⟨e, he, hk⟩ := withLen_next h
  cases hk
  exact ⟨e, he, rfl⟩

/-! ## The bank port (R104) -/

/-- The first record the port lists for a pair. -/
theorem findInst_eq_find (bank : List BankEntry) (voice key : Nat) :
    findInst bank voice key = (bank.find? fun b => b.voice = voice ∧ b.key = key).map BankEntry.inst := by
  induction bank with
  | nil => rfl
  | cons b bs ih =>
    unfold findInst
    rw [List.find?_cons]
    by_cases hv : b.voice = voice <;> by_cases hk : b.key = key <;> simp_all

theorem bankLookup_some {bank : List BankEntry} {voice key : Nat} {i : Instrument} (h : bankLookup bank voice key = some i) :
    voice < 268435456 ∧ key < 128 ∧ i.inRange = true ∧ findInst bank voice key = some i := by
  unfold bankLookup at h
  split at h
  · split at h
    · cases h
    · split at h
      · cases h; exact ⟨‹_ ∧ _›.1, ‹_ ∧ _›.2, ‹_›, ‹_›⟩
      · cases h
  · cases h

/-! ## Allocation (R440 to R446) -/

theorem mem_poolOf {c : VoiceClass} {i : P.Chan} : i ∈ poolOf P c ↔ P.classOf i = c := by
  simp [poolOf]

theorem firstInState_some {s : State P} {c : VoiceClass} {e : EnvState} {i : P.Chan} (h : firstInState s c e = some i) :
    P.classOf i = c ∧ s.channels[i].state = e :=
  ⟨mem_poolOf.1 (List.mem_of_find?_eq_some h), by simpa using List.find?_some h⟩

theorem firstInState_none {s : State P} {c : VoiceClass} {e : EnvState} (h : firstInState s c e = none) {i : P.Chan}
    (hi : P.classOf i = c) : s.channels[i].state ≠ e := by
  simpa using List.find?_eq_none.1 h i (mem_poolOf.2 hi)

theorem candidateOf_some {s : State P} (is : List P.Chan) (best : Option (P.Chan × TrackId)) {v : P.Chan} {o : TrackId}
    (h : candidateOf s is best = some (v, o)) : (v ∈ is ∧ s.channels[v].owner = some o) ∨ best = some (v, o) := by
  induction is generalizing best with
  | nil => exact .inr h
  | cons i is ih =>
    unfold candidateOf at h
    split at h
    · exact (ih _ h).imp (fun h => ⟨List.mem_cons_of_mem _ h.1, h.2⟩) id
    · rcases ih _ h with h | h
      · exact .inl ⟨List.mem_cons_of_mem _ h.1, h.2⟩
      · cases h; exact .inl ⟨List.mem_cons_self .., ‹_›⟩
    · rcases ih _ h with h | h
      · exact .inl ⟨List.mem_cons_of_mem _ h.1, h.2⟩
      · split at h
        · cases h; exact .inl ⟨List.mem_cons_self .., ‹_›⟩
        · exact .inr h

theorem stealFrom_some {s : State P} {t : TrackId} {best : Option (P.Chan × TrackId)} {v : P.Chan} (h : stealFrom s t best = some v) :
    ∃ o, best = some (v, o) ∧ (s.priorityOf o < s.priorityOf t ∨ (s.priorityOf o = s.priorityOf t ∧ t ≤ o)) := by
  unfold stealFrom at h
  split at h
  · cases h
  · split at h
    · cases h; exact ⟨_, rfl, .inl ‹_›⟩
    · split at h
      · cases h; exact ⟨_, rfl, .inr ‹_›⟩
      · cases h

/-- Everything `Allocate` can answer: one of the four steps of R441 in its order, with those before it failing. -/
theorem allocate_some {s : State P} {c : VoiceClass} {t : TrackId} {i : P.Chan} (h : allocate s c t = some i) :
    firstInState s c .dead = some i ∨
      (firstInState s c .dead = none ∧ firstInState s c .releasing = some i) ∨
      (firstInState s c .dead = none ∧ firstInState s c .releasing = none ∧ stealFrom s t (candidateOf s (poolOf P c) none) = some i) := by
  unfold allocate at h
  split at h
  · cases h; exact .inl ‹_›
  · split at h
    · cases h; exact .inr (.inl ⟨‹_›, ‹_›⟩)
    · exact .inr (.inr ⟨‹_›, ‹_›, h⟩)

/-- `Allocate` takes a channel of the requested class only (R440). -/
theorem allocate_class {s : State P} {c : VoiceClass} {t : TrackId} {i : P.Chan} (h : allocate s c t = some i) : P.classOf i = c := by
  rcases allocate_some h with h | ⟨_, h⟩ | ⟨_, _, h⟩
  · exact (firstInState_some h).1
  · exact (firstInState_some h).1
  · obtain ⟨o, ho, _⟩ := stealFrom_some h
    rcases candidateOf_some _ _ ho with h | h
    · exact mem_poolOf.1 h.1
    · cases h

/-! ## Starting a voice (R221) -/

/-- Everything `startVoice` can do: nothing, or `ChannelInit` on the channel `Allocate` returned for the record found. -/
theorem startVoice_cases (s : State P) (key velocity : Nat) (dur : Int) :
    startVoice s key velocity dur = s ∨
      ∃ i c, bankLookup s.bank s.track.voice key = some i ∧ i.fits s.sampleRom = true ∧ allocate s i.cls s.cur = some c ∧
        startVoice s key velocity dur =
          s.setChannel c (channelInit P s.sampleRom s.cur s.track key velocity dur i s.channels[c]) := by
  unfold startVoice
  split
  · exact .inl rfl
  · split
    · split
      · exact .inl rfl
      · exact .inr ⟨_, _, ‹_›, ‹_›, ‹_›, rfl⟩
    · exact .inl rfl

/-- `startVoice` changes the channel pool only. -/
theorem startVoice_frame (s : State P) (key velocity : Nat) (dur : Int) :
    startVoice s key velocity dur = { s with channels := (startVoice s key velocity dur).channels } := by
  rcases startVoice_cases s key velocity dur with h | ⟨i, c, _, _, _, h⟩
  · rw [h]
  · rw [h]; rfl

theorem noteOn_of_fetch {s : State P} {e : Entry} (h : s.fetch = some e) (key : Nat) (velocity : Byte) (dur : Int) :
    noteOn key velocity dur s =
      .next
        (startVoice (s.setTrack s.cur { s.track.restartLfo with cursor := s.track.cursor + e.len })
          (transposedKey key s.track.transpose) (noteVelocity velocity) dur) := by
  simp only [noteOn, withLen_of_fetch h]

theorem noteOn_next {s t : State P} {key : Nat} {velocity : Byte} {dur : Int} (h : noteOn key velocity dur s = .next t) :
    ∃ e, s.fetch = some e ∧
      t = startVoice (s.setTrack s.cur { s.track.restartLfo with cursor := s.track.cursor + e.len })
        (transposedKey key s.track.transpose) (noteVelocity velocity) dur := by
  obtain ⟨e, he, hk⟩ := withLen_next h
  cases hk
  exact ⟨e, he, rfl⟩

/-! ## Gains (R336) -/

theorem withGains_next {s t : State P} {k : State P → Result P} (h : withGains s k = .next t) :
    s.channels.toList.all Channel.bound = true ∧ k (s.mapChannels s.regainChannel) = .next t := by
  unfold withGains at h
  split at h
  · exact ⟨‹_›, h⟩
  · cases h

/-- `RecomputeGain` writes the two gains and the step and nothing else (R335). -/
theorem recomputeGain_frame (t : Track) (i : Instrument) (ch : Channel) :
    recomputeGain P t i ch =
      { ch with gainL := (recomputeGain P t i ch).gainL, gainR := (recomputeGain P t i ch).gainR, step := (recomputeGain P t i ch).step } := rfl

/-- Everything `regainChannel` can do to a channel: nothing, or `RecomputeGain` with its owner's registers and its instrument. -/
theorem regainChannel_cases (s : State P) (ch : Channel) :
    s.regainChannel ch = ch ∨
      ∃ t i, ch.live = true ∧ ch.owner = some t ∧ ch.inst = some i ∧ s.regainChannel ch = recomputeGain P s.tracks[t] i ch := by
  unfold State.regainChannel
  split
  · split
    · exact .inr ⟨_, _, ‹_›, ‹_›, ‹_›, rfl⟩
    · exact .inl rfl
  · exact .inl rfl

end Sys2Proof.Machine
end

