-- ==== Sys2Proof/Laws/PerInstr.lean ====
section
/-! SUPPORT. Statements about every command as syntax, one lemma per command. `EncodedLength`: a command is spelled in 1 to 7 bytes
(30_encoding.md R130). -/

/-- R130: the encoding of a command has at least one byte and at most seven. -/
def Sys2Proof.Laws.EncodedLength.Statement (i : Sys2Proof.Instr) : Prop :=
  1 ≤ (Sys2Proof.encode i).length ∧ (Sys2Proof.encode i).length ≤ Sys2Proof.maxCommandBytes

namespace Sys2Proof.Laws

/-- Opcode byte, operand bytes and a variable-length quantity: the length bound of the formats that end in one. -/
theorem encodedLength_vlq (i : Instr) (head : List Byte) (n : Nat) (h : encode i = head ++ encodeVlq n) (hpos : 1 ≤ head.length)
    (hlen : head.length ≤ 3) : EncodedLength.Statement i := by
  have hv := encodeVlq_length n
  unfold EncodedLength.Statement maxCommandBytes
  rw [h, List.length_append]
  omega

/-- A format without a variable-length quantity has a fixed length (R140). -/
theorem encodedLength_fixed (i : Instr) (n : Nat) (h : (encode i).length = n) (hpos : 1 ≤ n) (hmax : n ≤ maxCommandBytes) :
    EncodedLength.Statement i := by
  unfold EncodedLength.Statement
  omega

namespace EncodedLength

theorem note (key : Nat) (velocity : Byte) (duration : Nat) : Statement (Instr.note key velocity duration) :=
  encodedLength_vlq _ [BitVec.ofNat 8 key, velocity] duration rfl (by simp) (by simp)

theorem rest (n : Nat) : Statement (Instr.rest n) :=
  encodedLength_vlq _ [0x80#8] n rfl (by decide) (by decide)

theorem voice (v : Nat) : Statement (Instr.voice v) :=
  encodedLength_vlq _ [0x81#8] v rfl (by decide) (by decide)

theorem trackOpen (track : TrackId) (target : Off24) : Statement (Instr.trackOpen track target) :=
  encodedLength_fixed _ 5 rfl (by decide) (by decide)

theorem jump (target : Off24) : Statement (Instr.jump target) :=
  encodedLength_fixed _ 4 rfl (by decide) (by decide)

theorem call (target : Off24) : Statement (Instr.call target) :=
  encodedLength_fixed _ 4 rfl (by decide) (by decide)

theorem varSet (var : Byte) (imm : Half) : Statement (Instr.varSet var imm) :=
  encodedLength_fixed _ 4 rfl (by decide) (by decide)

theorem varAdd (var : Byte) (imm : Half) : Statement (Instr.varAdd var imm) :=
  encodedLength_fixed _ 4 rfl (by decide) (by decide)

theorem varSub (var : Byte) (imm : Half) : Statement (Instr.varSub var imm) :=
  encodedLength_fixed _ 4 rfl (by decide) (by decide)

theorem varMul (var : Byte) (imm : Half) : Statement (Instr.varMul var imm) :=
  encodedLength_fixed _ 4 rfl (by decide) (by decide)

theorem varDiv (var : Byte) (imm : Half) : Statement (Instr.varDiv var imm) :=
  encodedLength_fixed _ 4 rfl (by decide) (by decide)

theorem varShift (var : Byte) (imm : Half) : Statement (Instr.varShift var imm) :=
  encodedLength_fixed _ 4 rfl (by decide) (by decide)

theorem varRand (var : Byte) (imm : Half) : Statement (Instr.varRand var imm) :=
  encodedLength_fixed _ 4 rfl (by decide) (by decide)

theorem varReserved (var : Byte) (imm : Half) : Statement (Instr.varReserved var imm) :=
  encodedLength_fixed _ 4 rfl (by decide) (by decide)

theorem varEq (var : Byte) (imm : Half) : Statement (Instr.varEq var imm) :=
  encodedLength_fixed _ 4 rfl (by decide) (by decide)

theorem varGe (var : Byte) (imm : Half) : Statement (Instr.varGe var imm) :=
  encodedLength_fixed _ 4 rfl (by decide) (by decide)

theorem varGt (var : Byte) (imm : Half) : Statement (Instr.varGt var imm) :=
  encodedLength_fixed _ 4 rfl (by decide) (by decide)

theorem varLe (var : Byte) (imm : Half) : Statement (Instr.varLe var imm) :=
  encodedLength_fixed _ 4 rfl (by decide) (by decide)

theorem varLt (var : Byte) (imm : Half) : Statement (Instr.varLt var imm) :=
  encodedLength_fixed _ 4 rfl (by decide) (by decide)

theorem varNe (var : Byte) (imm : Half) : Statement (Instr.varNe var imm) :=
  encodedLength_fixed _ 4 rfl (by decide) (by decide)

theorem pan (x : Byte) : Statement (Instr.pan x) :=
  encodedLength_fixed _ 2 rfl (by decide) (by decide)

theorem vol (x : Byte) : Statement (Instr.vol x) :=
  encodedLength_fixed _ 2 rfl (by decide) (by decide)

theorem transpose (s : Byte) : Statement (Instr.transpose s) :=
  encodedLength_fixed _ 2 rfl (by decide) (by decide)

theorem bend (s : Byte) : Statement (Instr.bend s) :=
  encodedLength_fixed _ 2 rfl (by decide) (by decide)

theorem bendrange (x : Byte) : Statement (Instr.bendrange x) :=
  encodedLength_fixed _ 2 rfl (by decide) (by decide)

theorem prio (x : Byte) : Statement (Instr.prio x) :=
  encodedLength_fixed _ 2 rfl (by decide) (by decide)

theorem lfodepth (x : Byte) : Statement (Instr.lfodepth x) :=
  encodedLength_fixed _ 2 rfl (by decide) (by decide)

theorem lfospeed (x : Byte) : Statement (Instr.lfospeed x) :=
  encodedLength_fixed _ 2 rfl (by decide) (by decide)

theorem lfotarget (x : Byte) : Statement (Instr.lfotarget x) :=
  encodedLength_fixed _ 2 rfl (by decide) (by decide)

theorem lforange (x : Byte) : Statement (Instr.lforange x) :=
  encodedLength_fixed _ 2 rfl (by decide) (by decide)

theorem attack (x : Byte) : Statement (Instr.attack x) :=
  encodedLength_fixed _ 2 rfl (by decide) (by decide)

theorem decay (x : Byte) : Statement (Instr.decay x) :=
  encodedLength_fixed _ 2 rfl (by decide) (by decide)

theorem sustain (x : Byte) : Statement (Instr.sustain x) :=
  encodedLength_fixed _ 2 rfl (by decide) (by decide)

theorem release (x : Byte) : Statement (Instr.release x) :=
  encodedLength_fixed _ 2 rfl (by decide) (by decide)

theorem loop (count : Byte) : Statement (Instr.loop count) :=
  encodedLength_fixed _ 2 rfl (by decide) (by decide)

theorem expr (x : Byte) : Statement (Instr.expr x) :=
  encodedLength_fixed _ 2 rfl (by decide) (by decide)

theorem lfodelay (x : Half) : Statement (Instr.lfodelay x) :=
  encodedLength_fixed _ 3 rfl (by decide) (by decide)

theorem tempo (x : Half) : Statement (Instr.tempo x) :=
  encodedLength_fixed _ 3 rfl (by decide) (by decide)

theorem tie (key : Nat) (velocity : Byte) : Statement (Instr.tie key velocity) :=
  encodedLength_fixed _ 3 rfl (by decide) (by decide)

theorem eot (key : Nat) : Statement (Instr.eot key) :=
  encodedLength_fixed _ 2 rfl (by decide) (by decide)

theorem notec (key : Nat) (velocity : Byte) (duration : Nat) : Statement (Instr.notec key velocity duration) :=
  encodedLength_vlq _ [0xF2#8, BitVec.ofNat 8 key, velocity] duration rfl (by simp) (by simp)

theorem loopend : Statement Instr.loopend :=
  encodedLength_fixed _ 1 rfl (by decide) (by decide)

theorem ret : Statement Instr.ret :=
  encodedLength_fixed _ 1 rfl (by decide) (by decide)

theorem fine : Statement Instr.fine :=
  encodedLength_fixed _ 1 rfl (by decide) (by decide)

end EncodedLength

end Sys2Proof.Laws
end

