-- ==== Sys2Proof/Laws/Step.lean ====
section
/-! SUPPORT. Everything one step can do, phase by phase (42_tick_scheduler.md R270 to R290), and what each phase's own operations change. -/

namespace Sys2Proof.Machine

variable {P : Profile} {s t : State P}

/-! ## The step by phase -/

theorem step_boundary {s : State} (h : s.phase = .boundary) : step s = stepBoundary s := by simp only [step, advance, h]

theorem step_host {s : State} (h : s.phase = .host) : step s = stepHost s := by simp only [step, advance, h]

theorem step_pass {s : State} {job : PassJob} (h : s.phase = .pass job) : step s = stepPass job s := by simp only [step, advance, h]

theorem step_ticks {s : State} {job : TickJob} (h : s.phase = .ticks job) : step s = stepTicks job s := by simp only [step, advance, h]

theorem step_tickPre {s : State} {job : TickJob} (h : s.phase = .tickPre job) : step s = .next (trackPre job s) := by
  simp only [step, advance, h]

theorem step_tickRun {s : State} {job : TickJob} (h : s.phase = .tickRun job) : step s = stepTickRun job s := by simp only [step, advance, h]

/-! ## Commands -/

/-- `exec` is `execute` at the reference profile. -/
theorem exec_eq_execute (i : Instr) (s : State) : exec i s = execute i s := by cases i <;> rfl

theorem runCommand_of_fetch {e : Entry} (h : s.fetch = some e) : runCommand s = execute e.cmd s := by simp only [runCommand, h]

theorem runCommand_next (h : runCommand s = .next t) : ∃ e, s.fetch = some e ∧ execute e.cmd s = .next t := by
  unfold runCommand at h
  split at h
  · cases h
  · exact ⟨_, ‹_›, h⟩

/-! ## Each phase -/

theorem stepHost_next (h : stepHost s = .next t) :
    (∃ c cs, s.taken = c :: cs ∧ perform c { s with taken := cs } = .next t) ∨
      (s.taken = [] ∧ s.mode = .playing ∧ t = { s with tempoStack := s.tempoStack + s.tempo.toNat, phase := .ticks .frame }) ∨
      (s.taken = [] ∧ s.mode ≠ .playing ∧ finishFrame s = .next t) := by
  unfold stepHost at h
  split at h
  · exact .inl ⟨_, _, ‹_›, h⟩
  · split at h
    · cases h; exact .inr (.inl ⟨‹_›, ‹_›, rfl⟩)
    · exact .inr (.inr ⟨‹_›, ‹_›, h⟩)

theorem stepPass_next {job : PassJob} (h : stepPass job s = .next t) :
    (s.track.runnable = true ∧ runCommand s = .next t) ∨
      (s.track.runnable = false ∧ ∃ u, nextTrack s.cur = some u ∧ t = { s with cur := u }) ∨
      (s.track.runnable = false ∧ nextTrack s.cur = none ∧ endPass job s = .next t) := by
  unfold stepPass at h
  split at h
  · exact .inl ⟨‹_›, h⟩
  · have hr : s.track.runnable = false := by simpa using ‹¬ s.track.runnable = true›
    split at h
    · cases h; exact .inr (.inl ⟨hr, _, ‹_›, rfl⟩)
    · exact .inr (.inr ⟨hr, ‹_›, h⟩)

theorem endPass_next {job : PassJob} (h : endPass job s = .next t) :
    s.channels.toList.all Channel.bound = true ∧
      ((job = .play ∧ t = { s.mapChannels s.regainChannel with mode := .playing, phase := .host }) ∨
        ∃ m target, job = .seek m target ∧ t = { s.mapChannels s.regainChannel with phase := .ticks (.seek m target) }) := by
  obtain ⟨hb, hk⟩ := withGains_next h
  cases job with
  | play => cases hk; exact ⟨hb, .inl ⟨rfl, rfl⟩⟩
  | seek m target => cases hk; exact ⟨hb, .inr ⟨_, _, rfl, rfl⟩⟩

theorem stepTicks_next {job : TickJob} (h : stepTicks job s = .next t) :
    (job = .frame ∧ P.tempoThresh ≤ s.tempoStack ∧
        t = beginTick .frame { s with tempoStack := s.tempoStack - P.tempoThresh }) ∨
      (job = .frame ∧ s.tempoStack < P.tempoThresh ∧ finishFrame s = .next t) ∨
      (∃ m target, job = .seek m target ∧ s.elapsed < min target s.maxTicks ∧ t = beginTick (.seek m target) s) ∨
      (∃ m target, job = .seek m target ∧ min target s.maxTicks ≤ s.elapsed ∧ t = endSeek m s) := by
  unfold stepTicks at h
  split at h
  · split at h
    · cases h; exact .inl ⟨rfl, ‹_›, rfl⟩
    · exact .inr (.inl ⟨rfl, by omega, h⟩)
  · split at h
    · cases h; exact .inr (.inr (.inl ⟨_, _, rfl, ‹_›, rfl⟩))
    · cases h; exact .inr (.inr (.inr ⟨_, _, rfl, by omega, rfl⟩))

theorem stepTickRun_next {job : TickJob} (h : stepTickRun job s = .next t) :
    (s.track.runnable = true ∧ runCommand s = .next t) ∨
      (s.track.runnable = false ∧ ∃ u, nextTrack s.cur = some u ∧ t = { s with cur := u, phase := .tickPre job }) ∨
      (s.track.runnable = false ∧ nextTrack s.cur = none ∧ endTick job s = .next t) := by
  unfold stepTickRun at h
  split at h
  · exact .inl ⟨‹_›, h⟩
  · have hr : s.track.runnable = false := by simpa using ‹¬ s.track.runnable = true›
    split at h
    · cases h; exact .inr (.inl ⟨hr, _, ‹_›, rfl⟩)
    · exact .inr (.inr ⟨hr, ‹_›, h⟩)

theorem endTick_next {job : TickJob} (h : endTick job s = .next t) :
    s.channels.toList.all Channel.bound = true ∧ t = { loopCheck (s.mapChannels s.regainChannel) with phase := .ticks job } := by
  obtain ⟨hb, hk⟩ := withGains_next h
  cases hk
  exact ⟨hb, rfl⟩

/-- The fade trigger writes the fade only (R284). -/
theorem fadeTrigger_writes_fade (threshold : Option Nat) (s : State P) : ∃ f, fadeTrigger threshold s = { s with fade := f } := by
  unfold fadeTrigger
  split
  · exact ⟨s.fade, rfl⟩
  · split
    · exact ⟨_, rfl⟩
    · exact ⟨s.fade, rfl⟩

/-- Everything the loop check can do: nothing, or the rewind of R283 with or without the fade of R284. -/
theorem loopCheck_cases (s : State P) :
    loopCheck s = s ∨
      ∃ l f, s.seeking = false ∧ s.loopStartTick = some l ∧ s.elapsed = s.maxTicks ∧
        loopCheck s = { s with elapsed := l, loopCount := s.loopCount + 1, fade := f } := by
  unfold loopCheck
  split
  · exact .inl rfl
  · have hs : s.seeking = false := by simpa using ‹¬ s.seeking = true›
    split
    · exact .inl rfl
    · split
      · obtain ⟨f, hf⟩ := fadeTrigger_writes_fade P.loopThreshold { s with elapsed := _, loopCount := s.loopCount + 1 }
        exact .inr ⟨_, f, hs, ‹_›, ‹_›, hf⟩
      · exact .inl rfl

theorem endCheck_cases (s : State P) : endCheck s = s ∨ endCheck s = s.stopAll := by
  unfold endCheck; split
  · exact .inr rfl
  · exact .inl rfl

theorem finishFrame_next (h : finishFrame s = .next t) :
    (s.mode = .playing ∧ s.channels.toList.all (Channel.renderable s.sampleRom) = true ∧
        t = { endCheck s.afterQuantum with telemetry := telemetryOf (endCheck s.afterQuantum), phase := .boundary }) ∨
      (s.mode ≠ .playing ∧
        t = { endCheck { s with pcmOut := silentQuantum P } with
          telemetry := telemetryOf (endCheck { s with pcmOut := silentQuantum P }), phase := .boundary }) := by
  rcases withQuantum_next h with ⟨hm, hr, hk⟩ | ⟨hm, hk⟩
  · cases hk; exact .inl ⟨hm, hr, rfl⟩
  · cases hk; exact .inr ⟨hm, rfl⟩

/-! ## Host commands -/

theorem performLoad_next {song : Song} (h : performLoad song s = .next t) :
    song.rom.len ≤ P.seqSizeMax ∧
      ((∃ g, load (s.unload song) song = .ok g ∧
          t = { s.unload song with song := some g, loadStatus := .ok, mode := .stopped }) ∨
        ∃ e, load (s.unload song) song = .error (.error e) ∧
          t = { s.unload song with loadStatus := .failed e }) := by
  unfold performLoad at h
  split at h
  · cases h
  · refine ⟨by omega, ?_⟩
    split at h
    · cases h; exact .inl ⟨_, ‹_›, rfl⟩
    · cases h; exact .inr ⟨_, ‹_›, rfl⟩
    · cases h
    · cases h

/-- Everything a host command but `LoadSong` can do; none of them stops. -/
theorem perform_cases (c : HostCmd) (s : State P) :
    (∃ song, c = .loadSong song) ∨ perform c s = .next s ∨
      (c = .play ∧ s.mode = .stopped ∧ perform c s = .next { s.rewind with phase := .pass .play, cur := 0 }) ∨
      (c = .play ∧ s.mode = .paused ∧ perform c s = .next { s with mode := .playing }) ∨
      (c = .stop ∧ (s.mode = .playing ∨ s.mode = .paused) ∧ perform c s = .next s.stopAll) ∨
      (c = .pause ∧ s.mode = .playing ∧ perform c s = .next { s with mode := .paused }) ∨
      (∃ n, c = .setCurrentPosition n ∧ s.mode ≠ .noSong ∧
        perform c s = .next { s.rewind with seeking := true, phase := .pass (.seek s.mode n), cur := 0 }) ∨
      (c = .fadeIn ∧ (s.mode = .playing ∨ s.mode = .paused) ∧
        perform c s = .next { s with fade := beginFadeIn P.fadeSamples }) ∨
      (c = .shutDown ∧ perform c s = performShutDown s) := by
  cases c <;> cases hm : s.mode <;>
    simp [perform, performPlay, performStop, performPause, performSeek, performFadeIn, hm]

end Sys2Proof.Machine
end

