-- ==== Sys2Proof/Tests/Slice0.lean ====
section
/-! SUPPORT. The model's own tests: ill-formed terms that `WellFormed` refuses, words written out from 30_encoding.md R140 that decode to
their commands, single steps with the results 95_test_vectors.md gives, and for each statement with hypotheses a concrete witness that
meets them. -/

namespace Sys2Proof.Tests

open Sys2Proof.Machine

/-! ## WellFormed refuses an ill-formed operand (R131, R133, R137) -/

theorem test_wf_note_key : ¬ (Instr.note 128 0#8 0).WellFormed := by decide
theorem test_wf_note_duration : ¬ (Instr.note 0 0#8 268435456).WellFormed := by decide
theorem test_wf_notec_key : ¬ (Instr.notec 128 0#8 0).WellFormed := by decide
theorem test_wf_notec_duration : ¬ (Instr.notec 0 0#8 268435456).WellFormed := by decide
theorem test_wf_tie_key : ¬ (Instr.tie 128 0#8).WellFormed := by decide
theorem test_wf_eot_key : ¬ (Instr.eot 128).WellFormed := by decide
theorem test_wf_rest : ¬ (Instr.rest 268435456).WellFormed := by decide
theorem test_wf_voice : ¬ (Instr.voice 268435456).WellFormed := by decide
theorem test_wf_largest : (Instr.notec 127 255#8 268435455).WellFormed := by decide

/-! ## Decoding: one word for every command, from the table of R140 (values of 95_test_vectors.md 2.1 where it gives them) -/

/-- The bytes decode to the command and use all of them. -/
def spells (bytes : List Byte) (i : Instr) : Bool := decide (decode bytes = .ok (i, bytes.length))

theorem test_decode_note : spells [0b00111100#8, 0b01100100#8, 0b00110000#8] (.note 60 100#8 48) = true := by decide
theorem test_decode_note_lowest : spells [0x00#8, 0xFF#8, 0x00#8] (.note 0 255#8 0) = true := by decide
theorem test_decode_rest : spells [0b10000000#8, 0b10000001#8, 0b01001000#8] (.rest 200) = true := by decide
theorem test_decode_rest_largest : spells [0x80#8, 0xFF#8, 0xFF#8, 0xFF#8, 0x7F#8] (.rest 268435455) = true := by decide
theorem test_decode_rest_not_minimal : spells [0x80#8, 0x80#8, 0x60#8] (.rest 96) = true := by decide
theorem test_decode_voice : spells [0x81#8, 0x81#8, 0x00#8] (.voice 128) = true := by decide
theorem test_decode_open : spells [0b10010011#8, 0b00000001#8, 0x23#8, 0x01#8, 0x00#8] (.trackOpen 1 0x000123#24) = true := by decide
theorem test_decode_jump : spells [0x94#8, 0x10#8, 0x00#8, 0x00#8] (.jump 0x000010#24) = true := by decide
theorem test_decode_call : spells [0x95#8, 0x56#8, 0x34#8, 0x12#8] (.call 0x123456#24) = true := by decide
theorem test_decode_var_set : spells [0xB0#8, 0x00#8, 0x05#8, 0x00#8] (.varSet 0#8 5#16) = true := by decide
theorem test_decode_var_add : spells [0xB1#8, 0x01#8, 0x02#8, 0x03#8] (.varAdd 1#8 0x0302#16) = true := by decide
theorem test_decode_var_sub : spells [0xB2#8, 0x01#8, 0x02#8, 0x03#8] (.varSub 1#8 0x0302#16) = true := by decide
theorem test_decode_var_mul : spells [0b10110011#8, 0b00000010#8, 0xFF#8, 0xFF#8] (.varMul 2#8 (-1#16)) = true := by decide
theorem test_decode_var_div : spells [0xB4#8, 0x01#8, 0x02#8, 0x03#8] (.varDiv 1#8 0x0302#16) = true := by decide
theorem test_decode_var_shift : spells [0xB5#8, 0x01#8, 0x02#8, 0x03#8] (.varShift 1#8 0x0302#16) = true := by decide
theorem test_decode_var_rand : spells [0xB6#8, 0x01#8, 0x02#8, 0x03#8] (.varRand 1#8 0x0302#16) = true := by decide
theorem test_decode_var_reserved : spells [0xB7#8, 0x01#8, 0x02#8, 0x03#8] (.varReserved 1#8 0x0302#16) = true := by decide
theorem test_decode_var_eq : spells [0xB8#8, 0x01#8, 0x02#8, 0x03#8] (.varEq 1#8 0x0302#16) = true := by decide
theorem test_decode_var_ge : spells [0xB9#8, 0x01#8, 0x02#8, 0x03#8] (.varGe 1#8 0x0302#16) = true := by decide
theorem test_decode_var_gt : spells [0xBA#8, 0x01#8, 0x02#8, 0x03#8] (.varGt 1#8 0x0302#16) = true := by decide
theorem test_decode_var_le : spells [0xBB#8, 0x01#8, 0x02#8, 0x03#8] (.varLe 1#8 0x0302#16) = true := by decide
theorem test_decode_var_lt : spells [0xBC#8, 0x01#8, 0x02#8, 0x03#8] (.varLt 1#8 0x0302#16) = true := by decide
theorem test_decode_var_ne : spells [0xBD#8, 0x01#8, 0x02#8, 0x03#8] (.varNe 1#8 0x0302#16) = true := by decide
theorem test_decode_pan : spells [0b11000000#8, 0b01000000#8] (.pan 64#8) = true := by decide
theorem test_decode_vol : spells [0xC1#8, 0xC8#8] (.vol 200#8) = true := by decide
theorem test_decode_transpose : spells [0xC3#8, 0xF4#8] (.transpose (-12#8)) = true := by decide
theorem test_decode_bend : spells [0xC4#8, 0xFE#8] (.bend (-2#8)) = true := by decide
theorem test_decode_bendrange : spells [0xC5#8, 0x0C#8] (.bendrange 12#8) = true := by decide
theorem test_decode_prio : spells [0xC6#8, 0x64#8] (.prio 100#8) = true := by decide
theorem test_decode_lfodepth : spells [0b11001010#8, 0b01111111#8] (.lfodepth 127#8) = true := by decide
theorem test_decode_lfospeed : spells [0xCB#8, 0x40#8] (.lfospeed 64#8) = true := by decide
theorem test_decode_lfotarget : spells [0xCC#8, 0x01#8] (.lfotarget 1#8) = true := by decide
theorem test_decode_lforange : spells [0xCD#8, 0x02#8] (.lforange 2#8) = true := by decide
theorem test_decode_attack : spells [0b11010000#8, 0b11111111#8] (.attack 255#8) = true := by decide
theorem test_decode_decay : spells [0xD1#8, 0x01#8] (.decay 1#8) = true := by decide
theorem test_decode_sustain : spells [0xD2#8, 0x80#8] (.sustain 128#8) = true := by decide
theorem test_decode_release : spells [0xD3#8, 0x03#8] (.release 3#8) = true := by decide
theorem test_decode_loop : spells [0xD4#8, 0x00#8] (.loop 0#8) = true := by decide
theorem test_decode_expr : spells [0xD5#8, 0x40#8] (.expr 64#8) = true := by decide
theorem test_decode_lfodelay : spells [0xE0#8, 0x0A#8, 0x00#8] (.lfodelay 10#16) = true := by decide
theorem test_decode_tempo : spells [0b11100001#8, 0b00000000#8, 0b00000001#8] (.tempo 256#16) = true := by decide
theorem test_decode_tie : spells [0xF0#8, 0x3C#8, 0x64#8] (.tie 60 100#8) = true := by decide
theorem test_decode_eot : spells [0xF1#8, 0x3C#8] (.eot 60) = true := by decide
theorem test_decode_notec : spells [0b11110010#8, 0b00111100#8, 0b01100100#8, 0b10000001#8, 0b00000000#8] (.notec 60 100#8 128) = true := by
  decide
theorem test_decode_loopend : spells [0xFC#8] .loopend = true := by decide
theorem test_decode_ret : spells [0xFD#8] .ret = true := by decide
theorem test_decode_fine : spells [0b11111111#8] .fine = true := by decide

/-- A table word: its first byte is least significant (spec/opcode_table.json's numbering). -/
theorem test_table_word : decodeTableWord 24 0x00C8E1 = some (.tempo 200#16) := by decide

/-- The errors of 95_test_vectors.md 2.1. -/
theorem test_decode_errors :
    decode [0x83#8] = .error .unknownOpcode ∧ decode [0x80#8] = .error .outOfBounds ∧ decode [0xC1#8] = .error .outOfBounds ∧
      decode [0xF1#8, 0x80#8] = .error .badOperand ∧ decode [0x93#8, 0x10#8, 0#8, 0#8, 0#8] = .error .badOperand ∧
      decode [0x80#8, 0x80#8, 0x80#8, 0x80#8, 0x80#8, 0x00#8] = .error .badVarLen := by
  decide

/-! ## Another profile (R12): the tempo byte moved to 0x82 with a `u8` format, a variable operation with a signed byte, a stack of one
entry, two PCM channels -/

/-- A profile with its own control map, stack depth and pool. -/
@[reducible] def otherProfile : Profile :=
  { Profile.reference with
    ctrlMap := fun op =>
      if op = 0x82#8 then some ⟨.tempo, [.u8]⟩
      else if op = 0xB0#8 then some ⟨.varSet, [.u8, .s8]⟩
      else if op = 0xB1#8 then some ⟨.varAdd, [.u8]⟩
      else if op = 0xE1#8 then none
      else referenceCtrlMap op
    stackDepth := 1
    numPcm := 2 }

theorem test_other_map :
    decodeWith otherProfile.toDecodeProfile [0x82#8, 0x90#8] = .ok (.tempo 144#16, 2) ∧
      decodeWith otherProfile.toDecodeProfile [0xE1#8, 0x90#8, 0x00#8] = .error .unknownOpcode := by decide
/-- `FE` as an `s8` is -2 (R107, R132), which R131's s16 operand holds as 0xFFFE. -/
theorem test_signed_byte_field :
    decodeWith otherProfile.toDecodeProfile [0xB0#8, 0x05#8, 0xFE#8] = .ok (.varSet 5#8 0xFFFE#16, 3) := by decide
/-- A format without the second operand of its kind assigns no command, whatever follows (log 25). -/
theorem test_unfit_format :
    decodeWith otherProfile.toDecodeProfile [0xB1#8] = .error .unknownOpcode ∧
      decodeWith otherProfile.toDecodeProfile [0xB1#8, 0x05#8, 0x06#8] = .error .unknownOpcode := by decide
theorem test_other_stack_depth :
    execCall 0#24 ((State.powerOn otherProfile).setTrack 0 { Track.reset none with stack := [.call 4] }) = .fault .callStackOverflow := rfl
theorem test_other_pool : (poolOf otherProfile .pcm).length = 2 ∧ (poolOf otherProfile .square).map Fin.val = [2] := by decide

/-! ## Single steps -/

/-- The PCM instrument of 95_test_vectors.md, voice 0. -/
def pcmVoice : Instrument := ⟨255#8, 0#8, 255#8, 128#8, 60, none, .pcm ⟨.pcm8, 0, 8, true, 4, 32768⟩⟩

/-- The square instrument of 95_test_vectors.md, voice 1. -/
def squareVoice : Instrument := ⟨255#8, 0#8, 255#8, 0#8, 60, none, .square 2⟩

/-- The set-up of 95_test_vectors.md at the keys the tests play. -/
def setUp : State :=
  { State.reset with
    bank := [⟨0, 60, pcmVoice⟩, ⟨0, 62, pcmVoice⟩, ⟨0, 127, pcmVoice⟩, ⟨1, 69, squareVoice⟩]
    sampleRom := Memory.ofBytes [0x10#8, 0x20#8, 0x30#8, 0x40#8, 0x7F#8, 0x80#8, 0xFF#8, 0x00#8] }

/-- The set-up with some bytes where the next step fetches. -/
def placed (bytes : List Byte) : State := placeBytes setUp bytes

/-- The set-up with track 0's registers passed through `f`, then some bytes placed. -/
def placedOn (f : Track → Track) (bytes : List Byte) : State :=
  let s := placed bytes
  s.setTrack 0 (f s.tracks[(0 : TrackId)])

/-- What a step leaves, seen through `f`. -/
def seen {α : Type} (s : State) (f : State → α) : Option α :=
  match step s with
  | .next t => some (f t)
  | .fault _ => none
  | .refused _ => none

/-- Track 0 of a state. -/
def tr (s : State) : Track := s.tracks[(0 : TrackId)]

/-- Channel 0, the first PCM channel. -/
def pcm0 (s : State) : Channel := s.channels[(0 : ChanId)]

theorem test_step_note :
    seen (placed [0x3C#8, 0x64#8, 0x30#8]) (fun t => ((pcm0 t).key, (pcm0 t).velocity, (pcm0 t).durLeft, (pcm0 t).state, (tr t).cursor)) =
      some (60, 100, 48, .initializing, 3) := by decide
theorem test_step_note_duration_zero :
    seen (placed [0x3C#8, 0xFF#8, 0x00#8]) (fun t => ((pcm0 t).durLeft, (pcm0 t).velocity)) = some (1, 127) := by decide
theorem test_step_notec :
    seen (placed [0xF2#8, 0x3C#8, 0x64#8, 0x81#8, 0x00#8]) (fun t => ((pcm0 t).durLeft, (tr t).cursor)) = some (128, 5) := by decide
theorem test_step_notec_miss :
    seen (placedOn (fun x => { x with voice := 9, lfoPhase := 7#8, lfoDelay := 3#16 }) [0xF2#8, 0x3C#8, 0x64#8, 0x01#8])
        (fun t => ((pcm0 t).state, (tr t).lfoPhase, (tr t).lfoDelayCount)) = some (.dead, 0#8, 3#16) := by decide
theorem test_step_tie :
    seen (placedOn (fun x => { x with transpose := 2#8 }) [0xF0#8, 0x3C#8, 0x64#8]) (fun t => ((pcm0 t).key, (pcm0 t).durLeft)) =
      some (62, -1) := by decide
theorem test_step_tie_key_clamps :
    seen (placedOn (fun x => { x with transpose := 12#8 }) [0xF0#8, 0x78#8, 0x64#8]) (fun t => (pcm0 t).key) = some 127 := by decide

/-- The state after a tie of key 60, with further bytes placed. -/
def tied (bytes : List Byte) : State :=
  match step (placed [0xF0#8, 0x3C#8, 0x64#8]) with
  | .next t => placeBytes t bytes
  | .fault _ => setUp
  | .refused _ => setUp

theorem test_step_eot : seen (tied [0xF1#8, 0x3C#8]) (fun t => ((pcm0 t).state, (pcm0 t).level)) = some (.releasing, 0) := by decide
theorem test_step_eot_other_key : seen (tied [0xF1#8, 0x3D#8]) (fun t => (pcm0 t).state) = some .initializing := by decide
theorem test_step_rest : seen (placed [0x80#8, 0x60#8]) (fun t => ((tr t).rest, (tr t).cursor)) = some (96, 2) := by decide
theorem test_step_voice :
    seen (placed [0x81#8, 0xFF#8, 0xFF#8, 0xFF#8, 0x7F#8]) (fun t => (tr t).voice) = some 268435455 := by decide
theorem test_step_vol : seen (placed [0xC1#8, 0xC8#8]) (fun t => (tr t).volume) = some 127 := by decide
theorem test_step_vol_low : seen (placed [0xC1#8, 0x40#8]) (fun t => (tr t).volume) = some 64 := by decide
theorem test_step_expr : seen (placed [0xD5#8, 0xFF#8]) (fun t => (tr t).expression) = some 127 := by decide
theorem test_step_pan_left : seen (placed [0xC0#8, 0x00#8]) (fun t => (tr t).pan) = some (-64) := by decide
theorem test_step_pan_right : seen (placed [0xC0#8, 0xFF#8]) (fun t => (tr t).pan) = some 63 := by decide
theorem test_step_bend : seen (placed [0xC4#8, 0xFE#8]) (fun t => (tr t).pitchBend.toInt) = some (-2) := by decide
theorem test_step_bendrange : seen (placed [0xC5#8, 0x0C#8]) (fun t => (tr t).bendRange) = some 12#8 := by decide
theorem test_step_transpose : seen (placed [0xC3#8, 0xF4#8]) (fun t => (tr t).transpose.toInt) = some (-12) := by decide
theorem test_step_prio : seen (placed [0xC6#8, 0x64#8]) (fun t => (tr t).priority) = some 100#8 := by decide
theorem test_step_attack : seen (placed [0xD0#8, 0x00#8]) (fun t => (tr t).atkOvr) = some (some 0#8) := by decide
theorem test_step_decay : seen (placed [0xD1#8, 0x05#8]) (fun t => (tr t).decOvr) = some (some 5#8) := by decide
theorem test_step_sustain : seen (placed [0xD2#8, 0x80#8]) (fun t => (tr t).susOvr) = some (some 128#8) := by decide
theorem test_step_release : seen (placed [0xD3#8, 0x00#8]) (fun t => (tr t).relOvr) = some (some 0#8) := by decide
theorem test_step_lfodepth : seen (placed [0xCA#8, 0x7F#8]) (fun t => (tr t).lfoDepth) = some 127#8 := by decide
theorem test_step_lfospeed : seen (placed [0xCB#8, 0x40#8]) (fun t => (tr t).lfoSpeed) = some 64#8 := by decide
theorem test_step_lforange : seen (placed [0xCD#8, 0x02#8]) (fun t => (tr t).lfoRange) = some 2#8 := by decide
theorem test_step_lfodelay :
    seen (placed [0xE0#8, 0x0A#8, 0x00#8]) (fun t => ((tr t).lfoDelay, (tr t).lfoDelayCount)) = some (10#16, 0#16) := by decide
theorem test_step_lfotarget_volume : seen (placed [0xCC#8, 0x01#8]) (fun t => (tr t).lfoTarget) = some .volume := by decide
theorem test_step_lfotarget_off : seen (placed [0xCC#8, 0x03#8]) (fun t => (tr t).lfoTarget) = some .off := by decide
theorem test_step_tempo : seen (placed [0xE1#8, 0x96#8, 0x00#8]) (fun t => (t.tempo, t.tempoStack)) = some (150#16, 0) := by decide
theorem test_step_jump : seen (placed [0x94#8, 0x02#8, 0x00#8, 0x00#8]) (fun t => ((tr t).cursor, (tr t).stack)) = some (2, []) := by decide
theorem test_step_call :
    seen (placed [0x95#8, 0x0A#8, 0x00#8, 0x00#8]) (fun t => ((tr t).cursor, (tr t).stack)) = some (10, [.call 4]) := by decide
theorem test_step_call_full :
    step (placedOn (fun x => { x with stack := [.loop 1 2, .call 3, .call 4] }) [0x95#8, 0x0A#8, 0x00#8, 0x00#8]) =
      .fault .callStackOverflow := rfl
theorem test_step_ret :
    seen (placedOn (fun x => { x with stack := [.call 4] }) [0xFD#8]) (fun t => ((tr t).cursor, (tr t).stack)) = some (4, []) := by decide
theorem test_step_ret_loop_on_top :
    step (placedOn (fun x => { x with stack := [.loop 6 1, .call 4] }) [0xFD#8]) = .fault .returnUnderflow := rfl
theorem test_step_loop : seen (placed [0xD4#8, 0x02#8]) (fun t => ((tr t).cursor, (tr t).stack)) = some (2, [.loop 2 2]) := by decide
theorem test_step_loop_full :
    step (placedOn (fun x => { x with stack := [.loop 1 2, .call 3, .call 4] }) [0xD4#8, 0x02#8]) = .fault .callStackOverflow := rfl
theorem test_step_loopend_counts_down :
    seen (placedOn (fun x => { x with stack := [.loop 6 2] }) [0xFC#8]) (fun t => ((tr t).cursor, (tr t).stack)) =
      some (6, [.loop 6 1]) := by decide
theorem test_step_loopend_last :
    seen (placedOn (fun x => { x with stack := [.loop 6 1] }) [0xFC#8]) (fun t => ((tr t).cursor, (tr t).stack)) = some (1, []) := by decide
theorem test_step_open :
    seen (placed [0x93#8, 0x01#8, 0x11#8, 0x00#8, 0x00#8])
        (fun t => (t.tracks[(1 : TrackId)].opened, t.tracks[(1 : TrackId)].stopped, t.tracks[(1 : TrackId)].cursor, (tr t).cursor)) =
      some (true, false, 17, 5) := by decide
theorem test_step_open_already :
    seen (placed [0x93#8, 0x00#8, 0x11#8, 0x00#8, 0x00#8]) (fun t => (tr t).cursor) = some 5 := by decide
theorem test_step_fine : seen (tied [0xFF#8]) (fun t => ((tr t).stopped, (tr t).cursor, (pcm0 t).state)) = some (true, 0, .releasing) := by
  decide

/-- Each of the fourteen variable operations advances the cursor by 4 and leaves the other registers (95_test_vectors.md 2.6). -/
theorem test_step_var_ops :
    ∀ op ∈ [0xB0#8, 0xB1#8, 0xB2#8, 0xB3#8, 0xB4#8, 0xB5#8, 0xB6#8, 0xB7#8, 0xB8#8, 0xB9#8, 0xBA#8, 0xBB#8, 0xBC#8, 0xBD#8],
      seen (placed [op, 0x00#8, 0x05#8, 0x00#8]) tr = some { tr (placed [op, 0x00#8, 0x05#8, 0x00#8]) with cursor := 4 } := by decide

/-! ## The other operations -/

theorem test_envelope_decay : (({ Channel.reset with state := .decay, level := 255, d := 128#8, s := 64#8 } : Channel).tick referenceEnvLaw).level = 127 := by
  decide
theorem test_envelope_sustain_reached :
    (({ Channel.reset with state := .decay, level := 127, d := 128#8, s := 64#8 } : Channel).tick referenceEnvLaw).state = .sustain := by decide
theorem test_bend_rounds_to_zero : bendCents { Track.reset none with pitchBend := -1#8 } = -1 := by decide
theorem test_lfo_value : lfoValue { Track.reset none with lfoPhase := 192#8, lfoDepth := 127#8, lfoTarget := .pan } = -127 := by decide
theorem test_adpcm_clamps : ((⟨0, 87, 0, none⟩ : Codec).decode Profile.reference 4).pred = 32767 := by decide
theorem test_adpcm_exact : adpcmDifference .exact 7 7 = 13 ∧ adpcmDifference .shift 7 7 = 11 := by decide
theorem test_lfsr_seven_bit : lfsrClock 1 0x7FFF#15 = 0x3FBF#15 := by decide
theorem test_fade_half : fadeGain 2 (.fadeOut 81920 163840) = 16384 := by decide
theorem test_contribution_rounds_down : contribution (-1) 1 = -1 := by decide

/-- 95_test_vectors.md 2.14: idle channels 1 and 3, the rest sounding. -/
theorem test_allocate_lowest_idle :
    allocate ({ State.reset with
        channels := vecOfFn fun c => { Channel.reset with
          state := if c.val = 1 ∨ c.val = 3 then .dead else .sustain
          owner := if c.val = 1 ∨ c.val = 3 then none else some 0 } } : State) .pcm 5 = some 1 := by decide

/-- All eight PCM channels sounding, each for the track of its own index; tracks 3 and 5 at priority 10. -/
def crowded : State :=
  { State.reset with
    channels := vecOfFn fun c => { Channel.reset with state := .sustain, owner := some (Fin.ofNat 16 (c.val % 8)), inst := some pcmVoice }
    tracks := vecOfFn fun t => { Track.reset none with priority := if t.val = 3 ∨ t.val = 5 then 10#8 else if t.val = 9 then 20#8 else 64#8 } }

theorem test_allocate_steals_least_priority : allocate crowded .pcm 9 = some 5 := by decide
theorem test_allocate_drops : allocate (crowded.setTrack 9 { Track.reset none with priority := 5#8 }) .pcm 9 = none := by decide

/-! ## Witnesses: the hypotheses of the statements can be met -/

/-- A short rest placed where the next step fetches it. -/
def restPlaced : State := placed [0x80#8, 0x60#8]

theorem restPlaced_fetch : restPlaced.fetch = some ⟨.rest 96, 2, []⟩ := rfl

/-- The state after the rest ran. -/
def rested : State := restPlaced.setTrack 0 { restPlaced.track with rest := 96, cursor := 2 }

theorem restPlaced_exec : exec (.rest 96) restPlaced = .next rested := rfl

theorem restPlaced_step : step restPlaced = .next rested := rfl

/-- The placed table holds the one command. -/
theorem restPlaced_entry {t : TrackId} {p : Nat} {e : Entry} (h : restPlaced.entryAt t p = some e) : p = 0 ∧ e = ⟨.rest 96, 2, []⟩ := by
  have hother : ∀ u : TrackId, u ≠ 0 → (oneCommandTable Profile.reference [0x80#8, 0x60#8]).cmds[u] = [] := by decide
  have h' : lookupCmd (oneCommandTable Profile.reference [0x80#8, 0x60#8]).cmds[t] p = some e := h
  by_cases ht : t = 0
  · subst ht
    have h0 : lookupCmd [(0, ⟨.rest 96, 2, []⟩)] p = some e := h'
    by_cases hp : 0 = p
    · subst hp; cases h0; exact ⟨rfl, rfl⟩
    · simp [lookupCmd, hp] at h0
  · rw [hother t ht] at h'
    cases h'

/-- A table of the one command matches the bytes it was decoded from. -/
theorem restPlaced_matches : restPlaced.tableMatchesRom := by
  intro t p e h
  obtain ⟨rfl, rfl⟩ := restPlaced_entry h
  decide

theorem witness_decode_encode : (Instr.notec 127 255#8 268435455).WellFormed ∧ (Instr.trackOpen 15 0xFFFFFF#24).WellFormed := by decide
theorem witness_decode_answers_well_formed :
    decodeAt otherProfile.toDecodeProfile none [0x82#8, 0x90#8] = .ok ⟨.tempo 144#16, 2, some 0x82#8, none⟩ ∧
    decodeAt DecodeProfile.reference none [0x80#8, 0x60#8] = .ok ⟨.rest 96, 2, some 0x80#8, none⟩ ∧
      decodeAt { DecodeProfile.reference with lowByteMode := .runningStatus } (some 0x80#8) [0x60#8] = .ok ⟨.rest 96, 1, some 0x80#8, some 0x80#8⟩ := ⟨rfl, rfl, rfl⟩
theorem witness_decode_refuses_bad_operands :
    (Instr.tempo 150#16).WellFormed ∧ 2 < (encode (.tempo 150#16)).length ∧ 128 ≤ (128#8).toNat ∧ 128 ≤ (255#8).toNat ∧
      16 ≤ (16#8).toNat ∧ 16 ≤ (255#8).toNat := by decide
theorem witness_operand_fields_read :
    otherProfile.strictVarops = false ∧ otherProfile.ctrlMap 0xB0#8 = some ⟨.varSet, [.u8, .s8]⟩ ∧ 128 ≤ (0xB0#8 : Byte).toNat ∧
    (∀ g ∈ [0, 127, 127], g < 128) ∧ [0, 127, 127].length ≤ 3 ∧ (∀ g ∈ [0, 0, 0, 127], g < 128) ∧ [0, 0, 0, 127].length = 4 ∧ 127 < 128 := by
  decide
theorem witness_unassigned_bytes_unknown :
    128 ≤ (0x82#8).toNat ∧ unassignedControl (0x82#8).toNat ∧ 128 ≤ (0xFE#8).toNat ∧ unassignedControl (0xFE#8).toNat ∧
      128 ≤ (0x80#8).toNat ∧ ¬ unassignedControl (0x80#8).toNat := by
  unfold unassignedControl; decide
theorem witness_running_status_round_trip :
    (Instr.rest 96).WellFormed ∧ 128 ≤ (opcodeOf (.rest 96)).toNat ∧ operandBytes (.rest 96) = [0x60#8] ∧ (0x60#8).toNat < 128 ∧
      (0x7F#8).toNat < 128 := by decide
theorem witness_running_status_next :
    decodeAt DecodeProfile.reference (some 0xC1#8) [0xFC#8] = .ok ⟨.loopend, 1, some 0xC1#8, none⟩ ∧
      decodeAt DecodeProfile.reference none [0xC1#8, 0x40#8] = .ok ⟨.vol 64#8, 2, some 0xC1#8, none⟩ ∧
      decodeAt DecodeProfile.reference (some 0xC1#8) [0x3C#8, 0x64#8, 0x30#8] = .ok ⟨.note 60 100#8 48, 3, some 0xC1#8, none⟩ ∧
      referenceCtrlMap 0xFC#8 = some ⟨.loopend, []⟩ ∧ referenceCtrlMap 0xC1#8 = some ⟨.vol, [.u8]⟩ := by decide
theorem witness_step_runs_decoded_command :
    restPlaced.tableMatchesRom ∧ (∃ e, restPlaced.fetch = some e) ∧
      decode (restPlaced.seqRom.bytesFrom restPlaced.track.cursor maxFormatBytes) = .ok (.rest 96, 2) ∧ (Instr.rest 96).WellFormed ∧
      restPlaced.track.runnable = true ∧ ∃ job, restPlaced.phase = .tickRun job :=
  ⟨restPlaced_matches, ⟨_, restPlaced_fetch⟩, by decide, by decide, rfl, .frame, rfl⟩
theorem witness_placed_bytes_run_next :
    decode [0x80#8, 0x60#8] = .ok (.rest 96, 2) ∧ decodeTableWord 16 0x6080 = some (.rest 96) := by decide
theorem witness_rest_voice_volume_expression_pan_result :
    (∃ e, restPlaced.fetch = some e) ∧ ∃ e, (placed [0xC1#8, 0x80#8]).fetch = some e := ⟨⟨_, restPlaced_fetch⟩, ⟨.vol 128#8, 2, []⟩, rfl⟩
theorem witness_pitch_priority_envelope_result :
    (∃ e, (placed [0xC4#8, 0x80#8]).fetch = some e) ∧ ∃ e, (placed [0xD0#8, 0xFF#8]).fetch = some e :=
  ⟨⟨⟨.bend 128#8, 2, []⟩, rfl⟩, ⟨.attack 255#8, 2, []⟩, rfl⟩
theorem witness_lfo_register_and_tempo_result :
    (∃ e, (placed [0xCC#8, 0x03#8]).fetch = some e) ∧ ∃ e, (placed [0xE1#8, 0xFF#8, 0xFF#8]).fetch = some e :=
  ⟨⟨⟨.lfotarget 3#8, 2, []⟩, rfl⟩, ⟨.tempo 65535#16, 3, []⟩, rfl⟩

/-- A note placed where the next step fetches it. -/
def notePlaced : State := placed [0x3C#8, 0x64#8, 0x30#8]

/-- The same with a `sample_rom` too short for the instrument's region. -/
def shortRom : State := { notePlaced with sampleRom := Memory.ofBytes [1#8, 2#8, 3#8, 4#8, 5#8, 6#8, 7#8] }

/-- The same with every PCM channel sounding for track 15 at a higher priority. -/
def fullPool : State :=
  { notePlaced.setTrack 15 { Track.reset none with priority := 255#8 } with
    channels := vecOfFn fun _ => { Channel.reset with state := .sustain, owner := some 15, inst := some pcmVoice } }

theorem witness_note_on_miss :
    (∃ e, notePlaced.fetch = some e) ∧ bankLookup notePlaced.bank notePlaced.track.voice 61 = none := ⟨⟨⟨.note 60 100#8 48, 3, []⟩, rfl⟩, rfl⟩
theorem witness_note_on_allocated :
    bankLookup notePlaced.bank notePlaced.track.voice 60 = some pcmVoice ∧ pcmVoice.fits notePlaced.sampleRom = true ∧
      allocate notePlaced pcmVoice.cls notePlaced.cur = some 0 := by decide
theorem witness_note_on_region_outside :
    (∃ e, shortRom.fetch = some e) ∧ bankLookup shortRom.bank shortRom.track.voice 60 = some pcmVoice ∧
      pcmVoice.fits shortRom.sampleRom = false := ⟨⟨⟨.note 60 100#8 48, 3, []⟩, rfl⟩, rfl, rfl⟩
theorem witness_note_on_full_pool :
    (∃ e, fullPool.fetch = some e) ∧ bankLookup fullPool.bank fullPool.track.voice 60 = some pcmVoice ∧
      pcmVoice.fits fullPool.sampleRom = true ∧ allocate fullPool pcmVoice.cls fullPool.cur = none :=
  ⟨⟨⟨.note 60 100#8 48, 3, []⟩, rfl⟩, by decide⟩

/-- A bank of one PCM record at a voice and a key, with a region of a length at the last address. -/
def bankAt (voice key length : Nat) : List BankEntry :=
  [⟨voice, key, ⟨255#8, 0#8, 255#8, 128#8, 127, some 127, .pcm ⟨.pcm8, 4294967295, length, false, 0, 1048576⟩⟩⟩]

theorem witness_note_on_bank_bounds :
    (bankLookup (bankAt 268435455 127 2147483648) 268435455 127).isSome = true ∧
      (bankLookup (bankAt 268435455 127 1) 268435455 127).isSome = true ∧
      bankLookup (bankAt 268435456 127 1) 268435456 127 = none ∧ bankLookup (bankAt 0 128 1) 0 128 = none ∧
      bankLookup (bankAt 0 127 0) 0 127 = none ∧ bankLookup (bankAt 0 127 2147483649) 0 127 = none := by decide
theorem witness_note_on_region_bounds :
    let rom := Memory.ofBytes [1#8, 2#8, 3#8, 4#8, 5#8, 6#8, 7#8, 8#8]
    let inst : Region → Instrument := fun g => { pcmVoice with payload := .pcm g }
    (inst ⟨.pcm8, 3, 5, false, 0, 1⟩).fits rom = true ∧ (inst ⟨.pcm8, 3, 6, false, 0, 1⟩).fits rom = false ∧
      (inst ⟨.pcm16, 2, 3, false, 0, 1⟩).fits rom = true ∧ (inst ⟨.pcm16, 1, 4, false, 0, 1⟩).fits rom = false ∧
      (inst ⟨.adpcm, 1, 5, false, 0, 1⟩).fits rom = true ∧ (inst ⟨.adpcm, 1, 7, false, 0, 1⟩).fits rom = false ∧
      squareVoice.cls ≠ .pcm := by decide
theorem witness_end_of_tie_and_finish_result : ∃ e, (tied [0xF1#8, 0x3C#8]).fetch = some e := ⟨⟨.eot 60, 2, []⟩, rfl⟩
theorem witness_jump_call_return_result :
    (∃ e, (placed [0x95#8, 0x0A#8, 0x00#8, 0x00#8]).fetch = some e) ∧
      (placedOn (fun x => { x with stack := [.call 1, .call 2] }) [0x95#8, 0x0A#8, 0x00#8, 0x00#8]).track.stack.length < Config.stackDepth ∧
      (placedOn (fun x => { x with stack := [.call 1, .call 2, .call 3] }) [0x95#8, 0x0A#8, 0x00#8, 0x00#8]).track.stack.length =
        Config.stackDepth ∧
      (placedOn (fun x => { x with stack := [.call 4] }) [0xFD#8]).track.stack = .call 4 :: [] ∧
      ∀ r rest, (placed [0xFD#8]).track.stack ≠ .call r :: rest :=
  ⟨⟨⟨.call 10#24, 4, []⟩, rfl⟩, by decide, by decide, rfl, fun _ _ h => by cases h⟩
theorem witness_loop_result :
    (∃ e, (placedOn (fun x => { x with stack := [.loop 1 1, .loop 2 2] }) [0xD4#8, 0x00#8]).fetch = some e) ∧
      (placedOn (fun x => { x with stack := [.loop 1 1, .loop 2 2] }) [0xD4#8, 0x00#8]).track.stack.length < Config.stackDepth ∧
      (placedOn (fun x => { x with stack := [.loop 1 1, .loop 2 2, .call 3] }) [0xD4#8, 0x00#8]).track.stack.length = Config.stackDepth ∧
      (∃ e, (placedOn (fun x => { x with stack := [.loop 6 0] }) [0xFC#8]).fetch = some e) ∧
      (placedOn (fun x => { x with stack := [.loop 6 0] }) [0xFC#8]).track.stack = .loop 6 0 :: [] ∧
      ∀ b r rest, (placedOn (fun x => { x with stack := [.call 4] }) [0xFC#8]).track.stack ≠ .loop b r :: rest :=
  ⟨⟨⟨.loop 0#8, 2, []⟩, rfl⟩, by decide, by decide, ⟨⟨.loopend, 1, []⟩, rfl⟩, rfl, fun _ _ _ h => by cases h⟩
theorem witness_track_open_result : ∃ e, (placed [0x93#8, 0x01#8, 0x11#8, 0x00#8, 0x00#8]).fetch = some e :=
  ⟨⟨.trackOpen 1 0x11#24, 5, []⟩, rfl⟩
theorem witness_var_op_result :
    (∃ e, (placed [0xBD#8, 0x00#8, 0x05#8, 0x00#8]).fetch = some e) ∧ 0xB0 ≤ (0xB0#8).toNat ∧ (0xBD#8).toNat ≤ 0xBD :=
  ⟨⟨⟨.varNe 0#8 5#16, 4, []⟩, rfl⟩, by decide, by decide⟩
theorem witness_command_completes_or_stack_error :
    (∃ e, restPlaced.fetch = some e) ∧
      exec .ret (placed [0xFD#8]) = .fault .returnUnderflow ∧ exec .loopend (placed [0xFC#8]) = .fault .badLoopEnd :=
  ⟨⟨_, restPlaced_fetch⟩, rfl, rfl⟩
theorem witness_command_frame : ∃ t, exec (.rest 96) restPlaced = .next t := ⟨_, restPlaced_exec⟩

/-- The state after the tie of key 60. -/
def tiedPlain : State := tied [0xF1#8, 0x3C#8]

theorem witness_command_track_and_channel_frame :
    (∃ t, exec (.eot 60) tiedPlain = .next t) ∧ (∃ t, exec (.note 60 100#8 48) notePlaced = .next t) ∧
      ∃ t, exec (.trackOpen 1 0x11#24) (placed [0x93#8, 0x01#8, 0x11#8, 0x00#8, 0x00#8]) = .next t := ⟨⟨_, rfl⟩, ⟨_, rfl⟩, ⟨_, rfl⟩⟩
theorem witness_channel_init_fields :
    (⟨255#8, 0#8, 255#8, 0#8, 60, none, .pcm ⟨.adpcm, 0, 4, false, 0, 32768⟩⟩ : Instrument).payload = .pcm ⟨.adpcm, 0, 4, false, 0, 32768⟩ :=
  rfl

/-- A channel in a given envelope state with a tie's duration. -/
def inState (e : EnvState) (level : Nat) : Channel := { Channel.reset with state := e, level := level, durLeft := -1, owner := some 0 }

theorem witness_envelope_step_laws :
    (inState .initializing 0).state = .initializing ∧ (inState .decay 255).state = .decay ∧ (inState .sustain 64).state = .sustain ∧
      (inState .releasing 255).state = .releasing := by decide
theorem witness_attack_ends : (inState .attack 0).state = .attack ∧ (inState .attack 0).durLeft = -1 := by decide
theorem witness_release_dies : (inState .releasing 255).state = .releasing ∧ 0 < (inState .releasing 255).level := by decide
theorem witness_duration_releases :
    ({ inState .attack 0 with durLeft := 5 } : Channel).sounding = true ∧ (inState .sustain 64).sounding = true ∧
      (inState .sustain 64).durLeft = -1 := by decide
theorem witness_allocate_idle_then_releasing :
    Profile.reference.classOf 0 = .pcm ∧ State.reset.channels[(0 : ChanId)].state = .dead ∧
      (∀ j : ChanId, Profile.reference.classOf j = .pcm →
        (crowded.setChannel 2 (inState .releasing 9)).channels[j].state ≠ .dead) ∧
      Profile.reference.classOf 2 = .pcm ∧ (crowded.setChannel 2 (inState .releasing 9)).channels[(2 : ChanId)].state = .releasing ∧
      ∀ j : ChanId, j < 2 → Profile.reference.classOf j = .pcm → (crowded.setChannel 2 (inState .releasing 9)).channels[j].state ≠ .releasing := by
  decide
theorem witness_allocate_steals_candidate :
    (∀ j : ChanId, Profile.reference.classOf j = .pcm → crowded.channels[j].state ≠ .dead ∧ crowded.channels[j].state ≠ .releasing) ∧
      Profile.reference.classOf 5 = .pcm ∧ crowded.channels[(5 : ChanId)].owner = some 5 ∧
      ∀ (j : ChanId) (q : TrackId), Profile.reference.classOf j = .pcm → crowded.channels[j].owner = some q →
        crowded.tracks[(5 : TrackId)].priority.toNat < crowded.tracks[q].priority.toNat ∨
          (crowded.tracks[(5 : TrackId)].priority = crowded.tracks[q].priority ∧ (q < 5 ∨ (q = 5 ∧ 5 ≤ j))) := by decide
theorem witness_allocate_takes_or_drops :
    allocate crowded .pcm 9 = some 5 ∧ allocate (crowded.setTrack 9 { Track.reset none with priority := 5#8 }) .pcm 9 = none := by decide

/-- The state in which channel 0 sounds the tie, about to execute its end. -/
theorem tiedPlain_step : ∃ t, step tiedPlain = .next t := ⟨_, rfl⟩

theorem witness_step_keeps_owners : tiedPlain.ownersMatchLife ∧ ∃ t, step tiedPlain = .next t :=
  ⟨by unfold State.ownersMatchLife; decide, tiedPlain_step⟩
/-- A jump to itself: a closed song. -/
def jumpPlaced : State := placed [0x94#8, 0x00#8, 0x00#8, 0x00#8]

/-- The placed table holds the jump alone. -/
theorem jumpPlaced_entry {t : TrackId} {p : Nat} {e : Entry} (h : jumpPlaced.entryAt t p = some e) :
    t = 0 ∧ p = 0 ∧ e = ⟨.jump 0#24, 4, []⟩ := by
  have hother : ∀ u : TrackId, u ≠ 0 → (oneCommandTable Profile.reference [0x94#8, 0x00#8, 0x00#8, 0x00#8]).cmds[u] = [] := by decide
  have h' : lookupCmd (oneCommandTable Profile.reference [0x94#8, 0x00#8, 0x00#8, 0x00#8]).cmds[t] p = some e := h
  by_cases ht : t = 0
  · subst ht
    have h0 : lookupCmd [(0, ⟨.jump 0#24, 4, []⟩)] p = some e := h'
    by_cases hp : 0 = p
    · subst hp; cases h0; exact ⟨rfl, rfl, rfl⟩
    · simp [lookupCmd, hp] at h0
  · rw [hother t ht] at h'
    cases h'

theorem jumpPlaced_closed : jumpPlaced.tableClosed := by
  refine ⟨fun t x h => ?_, fun t p e h => ?_⟩
  · have hs : ∀ u : TrackId, u ≠ 0 → jumpPlaced.startTable[u] = none := by decide
    by_cases ht : t = 0
    · subst ht
      have hx : some 0#24 = some x := h
      cases hx
      rfl
    · rw [hs t ht] at h
      cases h
  · obtain ⟨rfl, rfl, rfl⟩ := jumpPlaced_entry h
    exact ⟨by decide, fun _ _ hj => absurd rfl (hj 0#24), fun x hx => by rcases hx with hx | hx <;> cases hx; rfl, fun i x hx => by cases hx⟩

theorem jumpPlaced_cursors : jumpPlaced.cursorsNameCommands := by
  refine ⟨jumpPlaced_closed, fun _ t ht => ?_⟩
  have hs : ∀ u : TrackId, u ≠ 0 → jumpPlaced.tracks[u].stopped = true := by decide
  by_cases h0 : t = 0
  · subst h0
    exact ⟨rfl, fun x hx => by cases hx⟩
  · rw [hs t h0] at ht
    cases ht

theorem witness_step_keeps_cursors_on_commands : jumpPlaced.cursorsNameCommands ∧ ∃ t, step jumpPlaced = .next t :=
  ⟨jumpPlaced_cursors, _, rfl⟩
theorem witness_step_keeps_track_ranges :
    jumpPlaced.tracksInRange ∧ jumpPlaced.tableWellFormed ∧ jumpPlaced.cursorsNameCommands ∧ ∃ t, step jumpPlaced = .next t := by
  refine ⟨fun t => ?_, fun t p e h => ?_, jumpPlaced_cursors, _, rfl⟩
  · have hs : ∀ u : TrackId, jumpPlaced.tracks[u].stack = [] := by decide
    have hr : ∀ u : TrackId, (jumpPlaced.tracks[u].opened = false → jumpPlaced.tracks[u].stopped = true) ∧
        jumpPlaced.tracks[u].cursor < 16777216 ∧ jumpPlaced.tracks[u].rest < 268435456 ∧ jumpPlaced.tracks[u].voice < 268435456 ∧
        jumpPlaced.tracks[u].volume ≤ 127 ∧ jumpPlaced.tracks[u].expression ≤ 127 ∧ -64 ≤ jumpPlaced.tracks[u].pan ∧
        jumpPlaced.tracks[u].pan ≤ 63 := by decide
    obtain ⟨h1, h2, h3, h4, h5, h6, h7, h8⟩ := hr t
    refine ⟨h1, h2, h3, h4, h5, h6, h7, h8, ?_, fun x hx => ?_⟩
    · rw [hs t]; decide
    · rw [hs t] at hx; cases hx
  · obtain ⟨_, _, rfl⟩ := jumpPlaced_entry h
    decide
theorem witness_step_keeps_table_matching_rom : restPlaced.tableMatchesRom ∧ ∃ t, step restPlaced = .next t :=
  ⟨restPlaced_matches, _, restPlaced_step⟩
theorem witness_step_keeps_memory_and_output_form :
    notePlaced.memoryWf ∧ State.reset.outputInRange ∧ (∃ t, step notePlaced = .next t) ∧ ∃ t, step State.reset = .next t :=
  ⟨by unfold State.memoryWf; decide, by unfold State.outputInRange; decide, ⟨_, rfl⟩, ⟨_, rfl⟩⟩
theorem witness_step_keeps_control_state :
    restPlaced.modeMatchesSong ∧ restPlaced.tempoStackBelow ∧ restPlaced.seekingMatchesPhase ∧ ∃ t, step restPlaced = .next t :=
  ⟨by unfold State.modeMatchesSong; decide, by unfold State.tempoStackBelow; decide, by unfold State.seekingMatchesPhase; decide, _,
    restPlaced_step⟩

/-- A cycling song at its end, between the last track and the loop check of a tick. -/
def atSongEnd : State :=
  { setUp with
    song := some { oneCommandTable Profile.reference [0x80#8, 0x60#8] with maxTicks := 48, loopStartTick := some 5 }
    mode := .playing
    elapsed := 48
    loopCount := 1
    phase := .tickRun .frame
    cur := 15 }

theorem atSongEnd_step :
    seen atSongEnd (fun t => (t.elapsed, t.loopCount, t.fade, t.phase)) = some (5, 2, .fadeOut 0 163840, .ticks .frame) := by decide
theorem witness_step_keeps_elapsed_within_song :
    atSongEnd.elapsedWithinSong ∧ atSongEnd.loopStartsBeforeEnd ∧ atSongEnd.seekingMatchesPhase ∧ ∃ t, step atSongEnd = .next t := by
  refine ⟨by unfold State.elapsedWithinSong; decide, ?_, by unfold State.seekingMatchesPhase; decide, _, rfl⟩
  intro l h
  cases h
  decide
theorem witness_step_keeps_channel_ranges :
    jumpPlaced.tableWellFormed ∧ jumpPlaced.channelsInRange ∧ (∃ t, step jumpPlaced = .next t) ∧ tiedPlain.instrumentsMatchPools ∧
      ∃ t, step tiedPlain = .next t := by
  refine ⟨witness_step_keeps_track_ranges.2.1, fun c => ?_, ⟨_, rfl⟩, ?_, tiedPlain_step⟩
  · have h : ∀ d : ChanId, jumpPlaced.channels[d] = Channel.reset := by decide
    rw [h c]
    exact ⟨by decide, by decide, by decide, by decide, by decide, by decide, by decide, by decide, ⟨by decide, by decide⟩,
      fun q hq => by cases hq⟩
  intro c hc
  by_cases h0 : c = 0
  · subst h0; exact ⟨pcmVoice, rfl, rfl⟩
  · exact absurd hc (by revert c; decide)
theorem witness_step_keeps_channels_renderable : tiedPlain.channelsRenderable ∧ ∃ t, step tiedPlain = .next t :=
  ⟨by unfold State.channelsRenderable; decide, tiedPlain_step⟩
theorem witness_silent_frame_step :
    State.reset.phase = .boundary ∧ State.reset.hostQueue = [] ∧ State.reset.mode ≠ .playing := by decide
theorem witness_telemetry :
    (fullPool.channels[(0 : ChanId)].state ≠ .dead ∧ fullPool.channels[(0 : ChanId)].owner = some 15) ∧
      (∀ j : ChanId, ¬ j < 0) ∧ ∀ c : ChanId, fullPool.channels[c].owner ≠ some 3 := by decide

/-- A song in play between two ticks of a frame step, the accumulator holding a given amount. -/
def betweenTicks (held : Nat) : State := { setUp with mode := .playing, phase := .ticks .frame, tempoStack := held }

theorem witness_frame_ticks_follow_tempo :
    ({ setUp with mode := .playing, phase := .host } : State).taken = [] ∧ (betweenTicks 240).phase.ofFrameTicks = true ∧
      (∃ t, step (betweenTicks 240) = .next t) ∧ ∃ t, step restPlaced = .next t := ⟨rfl, rfl, ⟨_, rfl⟩, _, restPlaced_step⟩
theorem frame_ends_below_threshold : ∃ t, stepTicks .frame { setUp with phase := .ticks .frame, tempoStack := 239 } = .next t := ⟨_, rfl⟩
theorem witness_stop_pause_fade_in_shut_down : seen { setUp with mode := .playing, taken := [.pause], phase := .host } (fun t => t.mode) = some .paused := by
  decide
theorem witness_play_and_seek :
    ({ setUp with mode := .stopped } : State).mode = .stopped ∧ ({ setUp with mode := .paused } : State).mode = .paused ∧
      ({ atSongEnd with phase := .ticks (.seek .stopped 48), seeking := true } : State).phase = .ticks (.seek .stopped 48) ∧
      min 48 atSongEnd.maxTicks ≤ atSongEnd.elapsed := by decide
theorem witness_host_queue_taken :
    (State.reset.enqueue .play).phase = .boundary ∧ ({ setUp with phase := .host, taken := [.stop, .play] } : State).taken = .stop :: [.play] ∧
      ({ setUp with phase := .host } : State).taken = [] ∧ ({ setUp with phase := .host } : State).mode ≠ .playing := by decide
theorem witness_queued_command_waits : restPlaced.phase ≠ .boundary ∧ ∃ t, step restPlaced = .next t := ⟨by decide, _, restPlaced_step⟩

/-- A song of some bytes whose track 0 starts at offset 0. -/
def songOf (bytes : List Byte) : Song := ⟨Memory.ofBytes bytes, startAtZero⟩

theorem load_of_rest_then_fine :
    (load State.reset (songOf [0x80#8, 0x05#8, 0xFF#8])).toOption.map (fun g => (g.maxTicks, g.loopStartTick)) =
      some (5, none) := by decide +kernel
theorem load_of_stray_return :
    load State.reset (songOf [0xFD#8]) = .error (.error ⟨.returnUnderflow, some 0, some 0, some 0xFD#8⟩) := rfl
theorem witness_load_outcome :
    (songOf [0xFD#8]).rom.len ≤ 16777216 ∧
      (∃ e, load State.reset (songOf [0xFD#8]) = .error (.error e)) ∧
      ∃ g, load State.reset (songOf [0x80#8, 0x05#8, 0xFF#8]) = .ok g := by
  refine ⟨by decide, ⟨_, load_of_stray_return⟩, ?_⟩
  have h := load_of_rest_then_fine
  change (load State.reset (songOf [0x80#8, 0x05#8, 0xFF#8])).toOption.map _ = _ at h
  cases hl : load State.reset (songOf [0x80#8, 0x05#8, 0xFF#8]) with
  | ok g => exact ⟨g, rfl⟩
  | error e => rw [hl] at h; cases h
theorem witness_loop_check_and_end_check :
    ({ setUp with mode := .playing, fade := .done } : State).mode = .playing ∧
      (∀ t : TrackId, setUp.tracks[t].stopped = true) ∧ (∀ c : ChanId, setUp.channels[c].state = .dead) ∧ setUp.mode ≠ .playing := by decide
/-- The tie of channel 0 sounding at the end of a frame step's ticks. -/
def sounding : State := { tiedPlain with phase := .ticks .frame, tempoStack := 239 }

theorem witness_mixing_law_and_mute :
    sounding.phase = .ticks .frame ∧ sounding.tempoStack < 240 ∧ sounding.mode = .playing ∧ sounding.channelsRenderable :=
  ⟨rfl, by decide, rfl, by unfold State.channelsRenderable; decide⟩
theorem witness_mute : ∃ t, step restPlaced = .next t := ⟨_, restPlaced_step⟩
theorem witness_gain_law :
    (127 : Nat) ≤ 127 ∧ (max (-64) (min 63 (({ Track.reset none with pan := -64 } : Track).pan + lfoPan (Track.reset none))) : Int) = -64 ∧
      (max (-64) (min 63 ((Track.reset none).pan + lfoPan (Track.reset none))) : Int) = 0 := by decide
theorem witness_codec_snapshot_and_bounds : (7 : Nat) < 8 ∧ 8 ∣ 16 ∧ 32767 ∈ codecSamples Profile.reference ⟨0, 87, 0, none⟩ [4] := by decide
theorem witness_render_values_and_range :
    Profile.reference.synthAmp = 8192 ∧ -32768 ≤ (inState .attack 0).codec.pred ∧ (inState .attack 0).codec.pred ≤ 32767 := by decide

/-- A channel at a position of a region, one whole sample a step. -/
def atPos (pos : Nat) (q : Codec) : Channel := { inState .sustain 255 with pos := pos, step := 65536, codec := q }

theorem witness_pcm_render_values :
    let looped : Region := ⟨.adpcm, 0, 8, true, 4, 32768⟩
    looped.format = .adpcm ∧ SampleFormat.pcm8 ≠ .adpcm ∧ ((atPos 6 ⟨0, 0, 0, none⟩).pos * 65536 + 0 + 65536) / 65536 < looped.length ∧
      looped.length ≤ ((atPos 7 ⟨0, 0, 0, none⟩).pos * 65536 + 0 + 65536) / 65536 ∧ looped.loop = true ∧
      looped.loopStart < looped.length ∧ (atPos 7 ⟨0, 0, 4, none⟩).codec.nib ≤ looped.loopStart ∧
      (atPos 6 ⟨0, 0, 4, none⟩).codec.nib ≤ looped.loopStart ∧ looped.loopStart < 4 + ((atPos 6 ⟨0, 0, 4, none⟩).pos + 1 - 4) ∧
      (atPos 7 ⟨0, 0, 8, some ⟨5, 1, 4⟩⟩).codec.snap = some ⟨5, 1, 4⟩ ∧ (⟨.pcm8, 0, 8, true, 8, 1⟩ : Region).length ≤ 8 := by decide
theorem witness_fade_law : 1 ≤ Config.fadeExp ∧ 0 < Config.fadeSamples ∧ 0 < (1 : Nat) := by decide
theorem witness_walk_is_closed :
    ∃ tables, walk Profile.reference (songOf [0x95#8, 0x05#8, 0x00#8, 0x00#8, 0xFF#8, 0xFD#8]) = .ok tables ∧
      lookupWalk tables[(0 : TrackId)] 0 = some ⟨.call 5#24, 4, none⟩ ∧ (songOf [0xFD#8]).starts[(0 : TrackId)] = some 0#24 :=
  ⟨_, rfl, rfl, rfl⟩
theorem load_of_loop :
    (load State.reset (songOf [0x80#8, 0x05#8, 0x94#8, 0x00#8, 0x00#8, 0x00#8])).toOption.map
        (fun g => (g.maxTicks, g.longest, g.loopStartTick, (lookupCmd g.cmds[(0 : TrackId)] 2).map Entry.ticks)) =
      some (5, 0, some 0, some [5]) := by decide +kernel
theorem witness_loaded_ticks_and_recorded_errors :
    (∃ g, load State.reset (songOf [0x80#8, 0x05#8, 0x94#8, 0x00#8, 0x00#8, 0x00#8]) = .ok g ∧ g.loopStartTick = some 0) ∧
      ∃ e, load State.reset (songOf [0xFD#8]) = .error (.error e) := by
  refine ⟨?_, _, load_of_stray_return⟩
  have h := load_of_loop
  cases hl : load State.reset (songOf [0x80#8, 0x05#8, 0x94#8, 0x00#8, 0x00#8, 0x00#8]) with
  | ok g => rw [hl] at h; exact ⟨g, rfl, congrArg (fun x => x.2.2.1) (Option.some.inj h)⟩
  | error e => rw [hl] at h; cases h

/-- An accounting state with no track opened, and one with track 0 opened. -/
def acctOf (starts : StartTable) : Acct Profile.reference :=
  acctStart State.reset ⟨Memory.empty, starts⟩ (Vector.replicate Config.maxTracks [])

/-- Track 0 of the accounting about to execute a command of given ticks at a tick. -/
def acctAt (cmd : Instr) (ticks : List Nat) (elapsed : Nat) : Acct Profile.reference :=
  { acctOf startAtZero with
    m :=
      { restPlaced with
        elapsed := elapsed
        song := some ⟨startAtZero, (Vector.replicate Config.maxTracks []).set 0 [(0, ⟨cmd, 2, ticks⟩)], 0, 0, none⟩ } }

theorem witness_accounting_runs :
    (acctAt (.rest 96) [] 0).done[(acctAt (.rest 96) [] 0).m.cur] = false ∧ (acctAt (.rest 96) [] 0).m.track.stopped = false ∧
      (acctAt (.rest 96) [] 0).m.track.rest = 0 ∧ (acctAt (.rest 96) [] 0).m.fetch = some ⟨.rest 96, 2, []⟩ ∧
      (acctAt (.rest 96) [] 0).m.track.stack = [] ∧ (acctAt (.rest 96) [0] 0).m.fetch = some ⟨.rest 96, 2, [0]⟩ ∧
      (acctAt (.rest 96) [0] 0).m.elapsed = 0 ∧ (acctAt (.rest 96) [0] 5).m.elapsed ≠ 0 := by decide
theorem witness_accounting_executes :
    (∃ m', execute (.rest 96) (acctAt (.rest 96) [] 0).m.stamp = .next m') ∧
      execute .ret (acctAt .ret [] 0).m.stamp = .fault .returnUnderflow ∧
      execute .loopend (acctAt .loopend [] 0).m.stamp = .fault .badLoopEnd := ⟨⟨_, rfl⟩, rfl, rfl⟩
theorem witness_accounting_ends :
    (∀ u : TrackId, (acctOf (Vector.replicate Config.maxTracks none)).done[u] = true) ∧ (acctOf startAtZero).done[(0 : TrackId)] = false :=
  ⟨by decide, by decide⟩
theorem witness_accounting_stamps_and_results :
    (∃ e, restPlaced.fetch = some e) ∧ (∀ t : TrackId, (acctOf (Vector.replicate Config.maxTracks none)).m.tracks[t].opened = false) ∧
      (acctOf startAtZero).m.tracks[(0 : TrackId)].opened = true := ⟨⟨_, restPlaced_fetch⟩, by decide, by decide⟩
theorem witness_tick_and_pass_structure :
    ({ jumpPlaced with phase := .tickPre .frame } : State).phase = .tickPre .frame ∧ rested.track.runnable = false ∧
      (1 : TrackId).val = rested.cur.val + 1 ∧ rested.phase = .tickRun .frame ∧ atSongEnd.track.runnable = false ∧
      atSongEnd.cur.val = 15 ∧ (∀ c : ChanId, atSongEnd.channels[c].state = .dead) ∧
      ({ atSongEnd with elapsed := 5 } : State).elapsed < min 48 atSongEnd.maxTicks := by decide

end Sys2Proof.Tests
end

/-! ## What a command can do (41_track_commands.md R220 to R250) -/

section

namespace Sys2Proof.Machine

variable {P : Profile}

/-- The duration with which a note-on command starts its voice (R221); none for every other command. -/
def noteLength : Instr → Option Int
  | .note _ _ duration => some (noteDuration duration)
  | .notec _ _ duration => some (noteDuration duration)
  | .tie _ _ => some tieDuration
  | _ => none

/-- The command's track goes on behind it (R220): true of all but `Jump`, `Return` and `Finish`. -/
def fallsThrough (i : Instr) : Prop := i ≠ .fine ∧ i ≠ .ret ∧ ∀ x, i ≠ .jump x

/-- The ranged registers of R42 and R43 that commands write from an operand are in their ranges. -/
def Track.paramsInRange (t : Track) : Prop :=
  t.rest < 268435456 ∧ t.voice < 268435456 ∧ t.volume ≤ 127 ∧ t.expression ≤ 127 ∧ -64 ≤ t.pan ∧ t.pan ≤ 63

/-- A command's register write: it leaves the track's control state alone, and from a well-formed command it keeps the ranges. -/
structure WritesRegister (i : Instr) (f : Track → Track) : Prop where
  control : ∀ t, (f t).opened = t.opened ∧ (f t).stopped = t.stopped ∧ (f t).stack = t.stack
  ranges : i.WellFormed → ∀ t, t.paramsInRange → (f t).paramsInRange

/-- The shapes of the commands' meanings: a register write, a note-on, an end of tie, or one of the seven control commands. -/
inductive CommandShape (P : Profile) (i : Instr) : Prop
  | register (f : Track → Track) (g : Half → Half) (h : ∀ s : State P, execute i s = retire { s with tempo := g s.tempo } f)
      (hi : fallsThrough i) (hf : WritesRegister i f)
  | note (key : Nat) (velocity : Byte) (dur : Int) (h : ∀ s : State P, execute i s = noteOn key velocity dur s)
      (hi : fallsThrough i) (hd : noteLength i = some dur)
  | endOfTie (key : Nat) (h : ∀ s : State P, execute i s = execEot key s) (hi : fallsThrough i)
  | trackOpen (track : TrackId) (target : Off24) (hi : i = .trackOpen track target)
  | jump (target : Off24) (hi : i = .jump target)
  | call (target : Off24) (hi : i = .call target)
  | loop (count : Byte) (hi : i = .loop count)
  | loopend (hi : i = .loopend)
  | ret (hi : i = .ret)
  | fine (hi : i = .fine)

theorem sevenBit_le (x : Byte) : sevenBit x ≤ 127 := Nat.min_le_right ..

theorem panOf_bounds (x : Byte) : -64 ≤ panOf x ∧ panOf x ≤ 63 := clamp_bounds _ _ _ (by decide)

theorem vlqOk_iff (n : Nat) : vlqOk n = true ↔ n < 268435456 := by simp [vlqOk]

/-- A command that writes one register in range whatever its operand, or none, is a register write. -/
theorem CommandShape.plainWrite {i : Instr} (f : Track → Track) (h : ∀ s : State P, execute i s = retire s f := by exact fun _ => rfl)
    (hi : fallsThrough i := by exact ⟨nofun, nofun, nofun⟩)
    (hf : ∀ t, (f t).opened = t.opened ∧ (f t).stopped = t.stopped ∧ (f t).stack = t.stack := by exact fun _ => ⟨rfl, rfl, rfl⟩)
    (hr : ∀ t, t.paramsInRange → (f t).paramsInRange := by exact fun _ => id) : CommandShape P i :=
  .register f id h hi ⟨hf, fun _ => hr⟩

/-- Every command has one of the shapes. -/
theorem commandShape (P : Profile) (i : Instr) : CommandShape P i := by
  cases i with
  | note key velocity duration => exact .note key velocity _ (fun _ => rfl) ⟨nofun, nofun, nofun⟩ rfl
  | notec key velocity duration => exact .note key velocity _ (fun _ => rfl) ⟨nofun, nofun, nofun⟩ rfl
  | tie key velocity => exact .note key velocity _ (fun _ => rfl) ⟨nofun, nofun, nofun⟩ rfl
  | eot key => exact .endOfTie key (fun _ => rfl) ⟨nofun, nofun, nofun⟩
  | trackOpen track target => exact .trackOpen track target rfl
  | jump target => exact .jump target rfl
  | call target => exact .call target rfl
  | loop count => exact .loop count rfl
  | loopend => exact .loopend rfl
  | ret => exact .ret rfl
  | fine => exact .fine rfl
  | rest n =>
    refine .register (fun t => { t with rest := n }) id (fun _ => rfl) ⟨nofun, nofun, nofun⟩ ⟨fun _ => ⟨rfl, rfl, rfl⟩, ?_⟩
    rintro hn t ⟨-, hrest⟩
    exact ⟨(vlqOk_iff n).1 hn, hrest⟩
  | voice v =>
    refine .register (fun t => { t with voice := v }) id (fun _ => rfl) ⟨nofun, nofun, nofun⟩ ⟨fun _ => ⟨rfl, rfl, rfl⟩, ?_⟩
    rintro hv t ⟨hr, -, hrest⟩
    exact ⟨hr, (vlqOk_iff v).1 hv, hrest⟩
  | vol x =>
    exact .plainWrite (fun t => { t with volume := sevenBit x }) (hr := fun _ ⟨hr, hv, _, h⟩ => ⟨hr, hv, sevenBit_le x, h⟩)
  | expr x =>
    exact .plainWrite (fun t => { t with expression := sevenBit x })
      (hr := fun _ ⟨hr, hv, hvol, _, h⟩ => ⟨hr, hv, hvol, sevenBit_le x, h⟩)
  | pan x =>
    exact .plainWrite (fun t => { t with pan := panOf x })
      (hr := fun _ ⟨hr, hv, hvol, hexpr, _⟩ => ⟨hr, hv, hvol, hexpr, panOf_bounds x⟩)
  | tempo x => exact .register id (fun _ => x) (fun _ => rfl) ⟨nofun, nofun, nofun⟩ ⟨fun _ => ⟨rfl, rfl, rfl⟩, fun _ _ h => h⟩
  | transpose x => exact .plainWrite fun t => { t with transpose := x }
  | bend x => exact .plainWrite fun t => { t with pitchBend := x }
  | bendrange x => exact .plainWrite fun t => { t with bendRange := x }
  | prio x => exact .plainWrite fun t => { t with priority := x }
  | lfodepth x => exact .plainWrite fun t => { t with lfoDepth := x }
  | lfospeed x => exact .plainWrite fun t => { t with lfoSpeed := x }
  | lfotarget x => exact .plainWrite fun t => { t with lfoTarget := lfoTargetOf x }
  | lforange x => exact .plainWrite fun t => { t with lfoRange := x }
  | attack x => exact .plainWrite fun t => { t with atkOvr := some x }
  | decay x => exact .plainWrite fun t => { t with decOvr := some x }
  | sustain x => exact .plainWrite fun t => { t with susOvr := some x }
  | release x => exact .plainWrite fun t => { t with relOvr := some x }
  | lfodelay x => exact .plainWrite fun t => { t with lfoDelay := x }
  | _ => exact .plainWrite id

/-! ### The control commands -/

variable {s t : State P}

theorem execTrackOpen_next {track : TrackId} {target : Off24} (h : execute (.trackOpen track target) s = .next t) :
    ∃ e, s.fetch = some e ∧
      t = (s.setTrack track (s.tracks[track].openAt target)).setTrack s.cur
        { (s.setTrack track (s.tracks[track].openAt target)).track with cursor := s.track.cursor + e.len } := by
  simp only [execute, execTrackOpen] at h
  obtain ⟨e, he, hk⟩ := withLen_next h
  cases hk
  exact ⟨e, he, rfl⟩

theorem execCall_next {target : Off24} (h : execute (.call target) s = .next t) :
    s.track.stack.length < P.stackDepth ∧ ∃ e, s.fetch = some e ∧
      t = s.setTrack s.cur
        { s.track with stack := .call (s.track.cursor + e.len) :: s.track.stack, cursor := target.toNat } := by
  simp only [execute, execCall] at h
  split at h
  · cases h
  · obtain ⟨e, he, hk⟩ := withLen_next h
    cases hk
    exact ⟨by omega, e, he, rfl⟩

theorem execLoop_next {count : Byte} (h : execute (.loop count) s = .next t) :
    s.track.stack.length < P.stackDepth ∧ ∃ e, s.fetch = some e ∧
      t = s.setTrack s.cur
        { s.track with
          stack := .loop (s.track.cursor + e.len) count.toNat :: s.track.stack
          cursor := s.track.cursor + e.len } := by
  simp only [execute, execLoop] at h
  split at h
  · cases h
  · obtain ⟨e, he, hk⟩ := withLen_next h
    cases hk
    exact ⟨by omega, e, he, rfl⟩

/-- Everything `LoopEnd` can do: repeat for ever, leave the loop, or count down and repeat. -/
theorem execLoopend_next (h : execute .loopend s = .next t) :
    (∃ body rest, s.track.stack = .loop body 0 :: rest ∧ t = s.setTrack s.cur { s.track with cursor := body }) ∨
      (∃ body rest e, s.track.stack = .loop body 1 :: rest ∧ s.fetch = some e ∧
        t = s.setTrack s.cur { s.track with stack := rest, cursor := s.track.cursor + e.len }) ∨
      ∃ body r rest, s.track.stack = .loop body (r + 2) :: rest ∧
        t = s.setTrack s.cur { s.track with stack := .loop body (r + 1) :: rest, cursor := body } := by
  simp only [execute, execLoopend] at h
  split at h
  · cases h; exact .inl ⟨_, _, ‹_›, rfl⟩
  · obtain ⟨e, he, rfl⟩ := retire_next h
    exact .inr (.inl ⟨_, _, e, ‹_›, he, rfl⟩)
  · cases h; exact .inr (.inr ⟨_, _, _, ‹_›, rfl⟩)
  · cases h

theorem execRet_next (h : execute .ret s = .next t) :
    ∃ r rest, s.track.stack = .call r :: rest ∧ t = s.setTrack s.cur { s.track with stack := rest, cursor := r } := by
  simp only [execute, execRet] at h
  split at h
  · cases h; exact ⟨_, _, ‹_›, rfl⟩
  · cases h

/-- A command writes the tempo, track registers and channels; everything else it leaves as it was (R220). -/
theorem execute_frame {i : Instr} (h : execute i s = .next t) :
    t = { s with tempo := t.tempo, tracks := t.tracks, channels := t.channels } := by
  cases commandShape P i with
  | register f g hx _ _ =>
    obtain ⟨e, _, rfl⟩ := retire_next (hx s ▸ h)
    rfl
  | note key velocity dur hx _ _ =>
    obtain ⟨e, _, rfl⟩ := noteOn_next (hx s ▸ h)
    rw [startVoice_frame]; rfl
  | endOfTie key hx _ =>
    obtain ⟨e, _, rfl⟩ := retire_next (hx s ▸ h)
    rfl
  | trackOpen _ _ hi =>
    obtain ⟨e, _, rfl⟩ := execTrackOpen_next (hi ▸ h)
    rfl
  | jump _ hi => cases hi; cases h; rfl
  | call _ hi =>
    obtain ⟨_, e, _, rfl⟩ := execCall_next (hi ▸ h)
    rfl
  | loop _ hi =>
    obtain ⟨_, e, _, rfl⟩ := execLoop_next (hi ▸ h)
    rfl
  | loopend hi =>
    obtain ⟨_, _, _, rfl⟩ | ⟨_, _, _, _, _, rfl⟩ | ⟨_, _, _, _, rfl⟩ := execLoopend_next (hi ▸ h) <;> rfl
  | ret hi =>
    obtain ⟨_, _, _, rfl⟩ := execRet_next (hi ▸ h)
    rfl
  | fine hi => cases hi; cases h; rfl

end Sys2Proof.Machine

end

/-! ## What a step can do (42_tick_scheduler.md R270 to R290, 60_exceptions.md R500 to R508) -/

section

namespace Sys2Proof.Machine

variable {P : Profile} {s t : State P}

/-- Every move of the block from a state, one constructor for each thing a step that answers a next state can have done (log 2). -/
inductive Move (s : State P) : State P → Prop
  /-- a frame step begins -/
  | frameBegins (hp : s.phase = .boundary) : Move s { s with taken := s.hostQueue, hostQueue := [], phase := .host }
  /-- a host command without effect in this mode -/
  | commandIgnored (c : HostCmd) (cs : List HostCmd) (hp : s.phase = .host) (hc : s.taken = c :: cs) : Move s { s with taken := cs }
  | playStarts (cs : List HostCmd) (hp : s.phase = .host) (hc : s.taken = .play :: cs) (hm : s.mode = .stopped) :
      Move s { ({ s with taken := cs } : State P).rewind with phase := .pass .play, cur := 0 }
  | playResumes (cs : List HostCmd) (hp : s.phase = .host) (hc : s.taken = .play :: cs) (hm : s.mode = .paused) :
      Move s { s with taken := cs, mode := .playing }
  | stops (cs : List HostCmd) (hp : s.phase = .host) (hc : s.taken = .stop :: cs) (hm : s.mode = .playing ∨ s.mode = .paused) :
      Move s ({ s with taken := cs } : State P).stopAll
  | pauses (cs : List HostCmd) (hp : s.phase = .host) (hc : s.taken = .pause :: cs) (hm : s.mode = .playing) :
      Move s { s with taken := cs, mode := .paused }
  | seekStarts (cs : List HostCmd) (target : Nat) (hp : s.phase = .host) (hc : s.taken = .setCurrentPosition target :: cs)
      (hm : s.mode ≠ .noSong) :
      Move s
        { ({ s with taken := cs } : State P).rewind with seeking := true, phase := .pass (.seek s.mode target), cur := 0 }
  | fadesIn (cs : List HostCmd) (hp : s.phase = .host) (hc : s.taken = .fadeIn :: cs)
      (hm : s.mode = .playing ∨ s.mode = .paused) : Move s { s with taken := cs, fade := beginFadeIn P.fadeSamples }
  | shutsDown (cs : List HostCmd) (hp : s.phase = .host) (hc : s.taken = .shutDown :: cs) :
      Move s
        { ({ s with taken := cs } : State P).stopAll with
          song := none
          mode := .noSong
          tracks := Vector.replicate Config.maxTracks (Track.reset none)
          taken := [] }
  | loads (cs : List HostCmd) (song : Song) (g : SongTable) (hp : s.phase = .host) (hc : s.taken = .loadSong song :: cs)
      (hlen : song.rom.len ≤ P.seqSizeMax) (hg : load (({ s with taken := cs } : State P).unload song) song = .ok g) :
      Move s { ({ s with taken := cs } : State P).unload song with song := some g, loadStatus := .ok, mode := .stopped }
  | loadFails (cs : List HostCmd) (song : Song) (e : LoadError) (hp : s.phase = .host) (hc : s.taken = .loadSong song :: cs)
      (hlen : song.rom.len ≤ P.seqSizeMax) (he : load (({ s with taken := cs } : State P).unload song) song = .error (.error e)) :
      Move s { ({ s with taken := cs } : State P).unload song with loadStatus := .failed e }
  /-- the tempo accumulator before the ticks of a frame step -/
  | accumulates (hp : s.phase = .host) (hc : s.taken = []) (hm : s.mode = .playing) :
      Move s { s with tempoStack := s.tempoStack + s.tempo.toNat, phase := .ticks .frame }
  | finishesSilent (hp : s.phase = .host ∧ s.taken = [] ∨ s.phase = .ticks .frame ∧ s.tempoStack < P.tempoThresh)
      (hm : s.mode ≠ .playing) :
      Move s
        { s with
          pcmOut := silentQuantum P
          telemetry := telemetryOf { s with pcmOut := silentQuantum P }
          phase := .boundary }
  | finishesPlayed (hp : s.phase = .ticks .frame) (hstack : s.tempoStack < P.tempoThresh) (hm : s.mode = .playing)
      (hr : s.channels.toList.all (Channel.renderable s.sampleRom) = true) :
      Move s { endCheck s.afterQuantum with telemetry := telemetryOf (endCheck s.afterQuantum), phase := .boundary }
  /-- the executing track runs the command at its cursor -/
  | runs (e : Entry) {t : State P} (hp : (∃ job, s.phase = .pass job) ∨ ∃ job, s.phase = .tickRun job)
      (hrun : s.track.runnable = true) (he : s.fetch = some e) (hx : execute e.cmd s = .next t) : Move s t
  | passNext (job : PassJob) (u : TrackId) (hp : s.phase = .pass job) (hrun : s.track.runnable = false)
      (hu : nextTrack s.cur = some u) : Move s { s with cur := u }
  | passEndsInPlay (hp : s.phase = .pass .play) (hrun : s.track.runnable = false) (hu : nextTrack s.cur = none)
      (hb : s.channels.toList.all Channel.bound = true) :
      Move s { s.mapChannels s.regainChannel with mode := .playing, phase := .host }
  | passEndsInSeek (m : Mode) (target : Nat) (hp : s.phase = .pass (.seek m target)) (hrun : s.track.runnable = false)
      (hu : nextTrack s.cur = none) (hb : s.channels.toList.all Channel.bound = true) :
      Move s { s.mapChannels s.regainChannel with phase := .ticks (.seek m target) }
  | frameTickBegins (hp : s.phase = .ticks .frame) (hstack : P.tempoThresh ≤ s.tempoStack) :
      Move s (beginTick .frame { s with tempoStack := s.tempoStack - P.tempoThresh })
  | seekTickBegins (m : Mode) (target : Nat) (hp : s.phase = .ticks (.seek m target)) (he : s.elapsed < min target s.maxTicks) :
      Move s (beginTick (.seek m target) s)
  | seekEnds (m : Mode) (target : Nat) (hp : s.phase = .ticks (.seek m target)) (he : min target s.maxTicks ≤ s.elapsed) :
      Move s (endSeek m s)
  | trackTicks (job : TickJob) (hp : s.phase = .tickPre job) : Move s (trackPre job s)
  | tickNext (job : TickJob) (u : TrackId) (hp : s.phase = .tickRun job) (hrun : s.track.runnable = false)
      (hu : nextTrack s.cur = some u) : Move s { s with cur := u, phase := .tickPre job }
  | tickEnds (job : TickJob) (hp : s.phase = .tickRun job) (hrun : s.track.runnable = false) (hu : nextTrack s.cur = none)
      (hb : s.channels.toList.all Channel.bound = true) :
      Move s { loopCheck (s.mapChannels s.regainChannel) with phase := .ticks job }

/-- The quantum of a frame step that plays nothing is silence, and no end check applies (R290, R480). -/
theorem finishFrame_silent (hm : s.mode ≠ .playing) :
    finishFrame s =
      .next
        { s with
          pcmOut := silentQuantum P
          telemetry := telemetryOf { s with pcmOut := silentQuantum P }
          phase := .boundary } := by
  have hend : endCheck { s with pcmOut := silentQuantum P } = { s with pcmOut := silentQuantum P } :=
    if_neg fun h => hm h.1
  simp only [finishFrame, withQuantum, if_neg hm, hend]

/-- Inversion of a host command taken from the queue. -/
theorem perform_move {c : HostCmd} {cs : List HostCmd} (hp : s.phase = .host) (hc : s.taken = c :: cs)
    (h : perform c { s with taken := cs } = .next t) : Move s t := by
  rcases perform_cases c { s with taken := cs } with ⟨song, rfl⟩ | hx | ⟨rfl, hm, hx⟩ | ⟨rfl, hm, hx⟩ | ⟨rfl, hm, hx⟩ |
    ⟨rfl, hm, hx⟩ | ⟨n, rfl, hm, hx⟩ | ⟨rfl, hm, hx⟩ | ⟨rfl, hx⟩
  · obtain ⟨hlen, ⟨g, hg, rfl⟩ | ⟨e, he, rfl⟩⟩ := performLoad_next h
    · exact .loads cs song g hp hc hlen hg
    · exact .loadFails cs song e hp hc hlen he
  all_goals rw [hx] at h; cases h
  · exact .commandIgnored c cs hp hc
  · exact .playStarts cs hp hc hm
  · exact .playResumes cs hp hc hm
  · exact .stops cs hp hc hm
  · exact .pauses cs hp hc hm
  · exact .seekStarts cs n hp hc hm
  · exact .fadesIn cs hp hc hm
  · exact .shutsDown cs hp hc

/-- Inversion of the step: whenever it answers a next state, it made one of the moves. -/
theorem advance_move (h : advance s = .next t) : Move s t := by
  cases hp : s.phase <;> simp only [advance, hp] at h
  case boundary => cases h; exact .frameBegins hp
  case host =>
    obtain ⟨c, cs, hc, h⟩ | ⟨hc, hm, rfl⟩ | ⟨hc, hm, h⟩ := stepHost_next h
    · exact perform_move hp hc h
    · exact .accumulates hp hc hm
    · rw [finishFrame_silent hm] at h
      cases h
      exact .finishesSilent (.inl ⟨hp, hc⟩) hm
  case pass job =>
    obtain ⟨hrun, h⟩ | ⟨hrun, u, hu, rfl⟩ | ⟨hrun, hu, h⟩ := stepPass_next h
    · obtain ⟨e, he, hx⟩ := runCommand_next h
      exact .runs e (.inl ⟨job, hp⟩) hrun he hx
    · exact .passNext job u hp hrun hu
    · obtain ⟨hb, ⟨rfl, rfl⟩ | ⟨m, target, rfl, rfl⟩⟩ := endPass_next h
      · exact .passEndsInPlay hp hrun hu hb
      · exact .passEndsInSeek m target hp hrun hu hb
  case ticks job =>
    obtain ⟨rfl, hstack, rfl⟩ | ⟨rfl, hstack, h⟩ | ⟨m, target, rfl, he, rfl⟩ | ⟨m, target, rfl, he, rfl⟩ := stepTicks_next h
    · exact .frameTickBegins hp hstack
    · by_cases hm : s.mode = .playing
      · obtain ⟨-, hr, rfl⟩ | ⟨hm', -⟩ := finishFrame_next h
        · exact .finishesPlayed hp hstack hm hr
        · exact absurd hm hm'
      · rw [finishFrame_silent hm] at h
        cases h
        exact .finishesSilent (.inr ⟨hp, hstack⟩) hm
    · exact .seekTickBegins m target hp he
    · exact .seekEnds m target hp he
  case tickPre job => cases h; exact .trackTicks job hp
  case tickRun job =>
    obtain ⟨hrun, h⟩ | ⟨hrun, u, hu, rfl⟩ | ⟨hrun, hu, h⟩ := stepTickRun_next h
    · obtain ⟨e, he, hx⟩ := runCommand_next h
      exact .runs e (.inr ⟨job, hp⟩) hrun he hx
    · exact .tickNext job u hp hrun hu
    · obtain ⟨hb, rfl⟩ := endTick_next h
      exact .tickEnds job hp hrun hu hb

end Sys2Proof.Machine

end

/-! ## The engine registers (10_state.md R30, R32, R54) -/

section

namespace Sys2Proof.Machine

variable {P : Profile} {s t : State P}

/-! ### What the shared operations leave alone -/

section

variable {i : Instr} (h : execute i s = .next t)
include h

theorem execute_seqRom : t.seqRom = s.seqRom := by rw [execute_frame h]
theorem execute_mode : t.mode = s.mode := by rw [execute_frame h]
theorem execute_tempoStack : t.tempoStack = s.tempoStack := by rw [execute_frame h]
theorem execute_elapsed : t.elapsed = s.elapsed := by rw [execute_frame h]
theorem execute_seeking : t.seeking = s.seeking := by rw [execute_frame h]
theorem execute_song : t.song = s.song := by rw [execute_frame h]
theorem execute_phase : t.phase = s.phase := by rw [execute_frame h]

end

/-- The loop check writes `E`, the loop counter and the fade (R283, R284). -/
theorem loopCheck_frame (s : State P) :
    loopCheck s = { s with elapsed := (loopCheck s).elapsed, loopCount := (loopCheck s).loopCount, fade := (loopCheck s).fade } := by
  obtain h | ⟨l, f, -, -, -, h⟩ := loopCheck_cases s <;> rw [h]

theorem loopCheck_mode (s : State P) : (loopCheck s).mode = s.mode := by rw [loopCheck_frame]
theorem loopCheck_song (s : State P) : (loopCheck s).song = s.song := by rw [loopCheck_frame]
theorem loopCheck_tempoStack (s : State P) : (loopCheck s).tempoStack = s.tempoStack := by rw [loopCheck_frame]
theorem loopCheck_seeking (s : State P) : (loopCheck s).seeking = s.seeking := by rw [loopCheck_frame]
theorem loopCheck_seqRom (s : State P) : (loopCheck s).seqRom = s.seqRom := by rw [loopCheck_frame]
theorem loopCheck_tracks (s : State P) : (loopCheck s).tracks = s.tracks := by rw [loopCheck_frame]
theorem loopCheck_channels (s : State P) : (loopCheck s).channels = s.channels := by rw [loopCheck_frame]

/-! ### O34 -/

@[simp] theorem beginTick_mode (job : TickJob) (s : State P) : (beginTick job s).mode = s.mode := rfl
@[simp] theorem beginTick_song (job : TickJob) (s : State P) : (beginTick job s).song = s.song := rfl
@[simp] theorem beginTick_seeking (job : TickJob) (s : State P) : (beginTick job s).seeking = s.seeking := rfl
@[simp] theorem beginTick_elapsed (job : TickJob) (s : State P) : (beginTick job s).elapsed = s.elapsed + 1 := rfl
@[simp] theorem beginTick_tracks (job : TickJob) (s : State P) : (beginTick job s).tracks = s.tracks := rfl
@[simp] theorem beginTick_phase (job : TickJob) (s : State P) : (beginTick job s).phase = .tickPre job := rfl
@[simp] theorem State.afterQuantum_mode (s : State P) : s.afterQuantum.mode = s.mode := rfl
@[simp] theorem State.afterQuantum_song (s : State P) : s.afterQuantum.song = s.song := rfl
@[simp] theorem State.afterQuantum_tempoStack (s : State P) : s.afterQuantum.tempoStack = s.tempoStack := rfl
@[simp] theorem State.afterQuantum_seeking (s : State P) : s.afterQuantum.seeking = s.seeking := rfl
@[simp] theorem State.afterQuantum_elapsed (s : State P) : s.afterQuantum.elapsed = s.elapsed := rfl
@[simp] theorem State.afterQuantum_tracks (s : State P) : s.afterQuantum.tracks = s.tracks := rfl

/-- R30: the song and the mode are written together. -/
theorem Move.keeps_modeMatchesSong {s t : State} (m : Move s t) (h : s.modeMatchesSong) : t.modeMatchesSong := by
  obtain ⟨hmode, hbusy⟩ := h
  have afterStop (u : State) : u.stopAll.mode = .noSong ↔ u.stopAll.song = none := by
    rw [State.stopAll_mode, State.stopAll_song]; cases u.song <;> simp
  have song_of_mode (hm : s.mode ≠ .noSong) : s.song ≠ none := fun hs => hm (hmode.2 hs)
  have song_of_phase {p : Phase} (hp : s.phase = p) (hb : p.busy = true) : s.song ≠ none := hbusy (hp ▸ hb)
  have idle {q : Prop} (hb : false = true) : q := nomatch hb
  have quiet (hp : s.phase = .host) : s.phase.busy ≠ true := by rw [hp]; nofun
  have live {k : Mode} (hk : k ≠ .noSong) (hs : s.song ≠ none) : k = .noSong ↔ s.song = none := iff_of_false hk hs
  unfold State.modeMatchesSong
  cases m with
  | frameBegins hp => exact ⟨hmode, idle⟩
  | commandIgnored c cs hp => exact ⟨hmode, hbusy⟩
  | fadesIn cs hp => exact ⟨hmode, hbusy⟩
  | playStarts cs hp hc hm => exact ⟨hmode, fun _ => song_of_mode (by simp [hm])⟩
  | playResumes cs hp hc hm => exact ⟨live nofun (song_of_mode (by simp [hm])), hbusy⟩
  | stops cs hp => exact ⟨afterStop _, hbusy⟩
  | pauses cs hp hc hm => exact ⟨live nofun (song_of_mode (by simp [hm])), hbusy⟩
  | seekStarts cs target hp hc hm => exact ⟨hmode, fun _ => song_of_mode hm⟩
  | shutsDown cs hp => exact ⟨iff_of_true rfl rfl, fun hb => absurd hb (quiet hp)⟩
  | loads cs song g hp => exact ⟨iff_of_false nofun nofun, fun _ => nofun⟩
  | loadFails cs song e hp => exact ⟨iff_of_true rfl rfl, fun hb => absurd hb (quiet hp)⟩
  | accumulates hp hc hm => exact ⟨hmode, fun _ => song_of_mode (by simp [hm])⟩
  | finishesSilent hp hm => exact ⟨hmode, idle⟩
  | finishesPlayed hp hstack hm =>
    refine ⟨?_, idle⟩
    obtain h | h := endCheck_cases s.afterQuantum <;> simp only [h]
    · simpa using hmode
    · exact afterStop _
  | runs e hp hrun he hx => rw [execute_mode hx, execute_song hx, execute_phase hx]; exact ⟨hmode, hbusy⟩
  | passNext job u hp => exact ⟨hmode, hbusy⟩
  | passEndsInPlay hp => exact ⟨live nofun (song_of_phase hp rfl), idle⟩
  | passEndsInSeek m target hp => exact ⟨hmode, fun _ => song_of_phase hp rfl⟩
  | frameTickBegins hp =>
    simp only [beginTick_mode, beginTick_song]
    exact ⟨hmode, fun _ => song_of_phase hp rfl⟩
  | seekTickBegins m target hp => exact ⟨hmode, fun _ => song_of_phase hp rfl⟩
  | seekEnds m target hp =>
    have hk : (if m = .playing then Mode.playing else .paused) ≠ .noSong := by split <;> nofun
    exact ⟨live hk (song_of_phase hp rfl), idle⟩
  | trackTicks job hp => exact ⟨hmode, fun _ => song_of_phase hp rfl⟩
  | tickNext job u hp => exact ⟨hmode, fun _ => song_of_phase hp rfl⟩
  | tickEnds job hp =>
    simp only [loopCheck_mode, loopCheck_song]
    exact ⟨hmode, fun _ => song_of_phase hp rfl⟩

theorem Move.keeps_tempoStackBelow {s t : State} (m : Move s t) (h : s.tempoStackBelow) : t.tempoStackBelow := by
  have below {p : Phase} (hp : s.phase = p) (hf : p.ofFrameTicks = false) : s.tempoStack < Config.tempoThresh := h (hp ▸ hf)
  have inFrame {q : Prop} (hf : true = false) : q := nomatch hf
  have zero : 0 < Config.tempoThresh := by decide
  unfold State.tempoStackBelow
  cases m with
  | frameBegins hp => exact fun _ => below hp rfl
  | commandIgnored c cs hp => exact h
  | fadesIn cs hp => exact h
  | playStarts cs hp => exact fun _ => zero
  | playResumes cs hp => exact h
  | stops cs hp => exact fun _ => zero
  | pauses cs hp => exact h
  | seekStarts cs target hp => exact fun _ => zero
  | shutsDown cs hp => exact fun _ => zero
  | loads cs song g hp => exact fun _ => zero
  | loadFails cs song e hp => exact fun _ => zero
  | accumulates hp => exact inFrame
  | finishesSilent hp hm =>
    obtain ⟨hp, -⟩ | ⟨-, hstack⟩ := hp
    · exact fun _ => below hp rfl
    · exact fun _ => hstack
  | finishesPlayed hp hstack hm =>
    obtain h | h := endCheck_cases s.afterQuantum <;> simp only [h]
    · simpa using fun _ => hstack
    · exact fun _ => zero
  | runs e hp hrun he hx => rw [execute_tempoStack hx, execute_phase hx]; exact h
  | passNext job u hp => exact h
  | passEndsInPlay hp => exact fun _ => below hp rfl
  | passEndsInSeek m target hp => exact fun _ => below hp rfl
  | frameTickBegins hp => exact inFrame
  | seekTickBegins m target hp => exact fun _ => below hp rfl
  | seekEnds m target hp => exact fun _ => below hp rfl
  | trackTicks job hp => cases job with
    | frame => exact inFrame
    | seek m target => exact fun _ => below hp rfl
  | tickNext job u hp => cases job with
    | frame => exact inFrame
    | seek m target => exact fun _ => below hp rfl
  | tickEnds job hp => cases job with
    | frame => exact inFrame
    | seek m target => simp only [loopCheck_tempoStack]; exact fun _ => below hp rfl

/-- R54: the flag is written by the start and the end of a seek only, together with the phase. -/
theorem Move.keeps_seekingMatchesPhase {s t : State} (m : Move s t) (h : s.seekingMatchesPhase) : t.seekingMatchesPhase := by
  have seeking {p : Phase} (hp : s.phase = p) : s.seeking = p.ofSeek := hp ▸ h
  unfold State.seekingMatchesPhase
  cases m with
  | frameBegins hp => exact (seeking hp).trans rfl
  | commandIgnored c cs hp => exact h
  | fadesIn cs hp => exact h
  | playStarts cs hp => exact (seeking hp).trans rfl
  | playResumes cs hp => exact h
  | stops cs hp => exact h
  | pauses cs hp => exact h
  | seekStarts cs target hp => rfl
  | shutsDown cs hp => exact h
  | loads cs song g hp => exact h
  | loadFails cs song e hp => exact h
  | accumulates hp => exact (seeking hp).trans rfl
  | finishesSilent hp hm => obtain ⟨hp, -⟩ | ⟨hp, -⟩ := hp <;> exact (seeking hp).trans rfl
  | finishesPlayed hp hstack hm =>
    obtain h | h := endCheck_cases s.afterQuantum <;> simp only [h, State.stopAll_seeking, State.afterQuantum_seeking] <;>
      exact (seeking hp).trans rfl
  | runs e hp hrun he hx => rw [execute_seeking hx, execute_phase hx]; exact h
  | passNext job u hp => exact h
  | passEndsInPlay hp => exact (seeking hp).trans rfl
  | passEndsInSeek m target hp => exact (seeking hp).trans rfl
  | frameTickBegins hp => simp only [beginTick_seeking]; exact (seeking hp).trans rfl
  | seekTickBegins m target hp => exact (seeking hp).trans rfl
  | seekEnds m target hp => rfl
  | trackTicks job hp => cases job <;> exact (seeking hp).trans rfl
  | tickNext job u hp => cases job <;> exact (seeking hp).trans rfl
  | tickEnds job hp => simp only [loopCheck_seeking]; cases job <;> exact (seeking hp).trans rfl

/-- Settles O34: each of the three is kept by every move of the block. -/
theorem stepKeepsControlState : Obligations.step_keeps_control_state := by
  intro s t h
  have m : Move s t := advance_move h
  exact ⟨m.keeps_modeMatchesSong, m.keeps_tempoStackBelow, m.keeps_seekingMatchesPhase⟩

end Sys2Proof.Machine

end

/-! ## The channel pool along a step (10_state.md R46 to R51) -/

section

namespace Sys2Proof.Machine

variable {P : Profile} {s t : State P}

/-- One output sample of a channel in the mixer (R470, R471): a live owned channel renders, any other stays. -/
def Channel.afterSample (P : Profile) (rom : Memory) (ch : Channel) : Channel :=
  if ch.live = true ∧ ch.owner.isSome = true then (renderChannel P rom ch).2 else ch

/-- A quantum renders each channel by itself, one output sample after another (R470). -/
theorem renderSamples_channels (P : Profile) (rom : Memory) (mask : Half) (n : Nat) (chs : List Channel) (fade : Fade) :
    (renderSamples P rom mask n chs fade).1 = chs.map (Channel.afterSample P rom)^[n] := by
  induction n generalizing chs fade with
  | zero => simp [renderSamples]
  | succ n ih =>
    simp only [renderSamples, renderChannels_fst, ih, List.map_map, Function.iterate_succ]
    rfl

theorem State.afterQuantum_toList (s : State P) :
    s.afterQuantum.channels.toList = s.channels.toList.map (Channel.afterSample P s.sampleRom)^[P.samplesPerFrame] :=
  renderSamples_channels ..

theorem State.afterQuantum_channel (s : State P) (c : P.Chan) :
    s.afterQuantum.channels[c] = (Channel.afterSample P s.sampleRom)^[P.samplesPerFrame] s.channels[c] := by
  have hc : c.val < s.afterQuantum.channels.toList.length := by simp
  have h := List.getElem_of_eq s.afterQuantum_toList hc
  simpa using h

/-- What a property of the pool's channels must survive to be kept by every step: the operations that write a channel (R318 to R320, R335,
R452, R471). `lengthOk` is what is known of the durations of the song's notes. -/
structure ChannelStable (P : Profile) (rom : Memory) (lengthOk : Int → Prop) (Q : P.Chan → Channel → Prop) : Prop where
  die : ∀ c ch, Q c ch → Q c ch.die
  release : ∀ c ch, Q c ch → Q c ch.release
  tick : ∀ c ch, Q c ch → Q c (ch.tick (P.envLaw (P.classOf c)))
  regain : ∀ c ch x i, Q c ch → Q c (recomputeGain P x i ch)
  render : ∀ c ch, Q c ch → Q c (renderChannel P rom ch).2
  init : ∀ c ch o x key velocity dur i, P.classOf c = i.cls → i.inRange = true → i.fits rom = true → key ≤ 127 → velocity ≤ 127 →
    lengthOk dur → Q c ch → Q c (channelInit P rom o x key velocity dur i ch)

theorem transposedKey_le (key : Nat) (transpose : Byte) : transposedKey key transpose ≤ 127 := by
  have h := clamp_bounds 0 127 (key + transpose.toInt) (by decide)
  unfold transposedKey
  omega

theorem noteVelocity_le (velocity : Byte) : noteVelocity velocity ≤ 127 := Nat.min_le_right ..

section

variable {lengthOk : Int → Prop} {Q : P.Chan → Channel → Prop}

theorem startVoice_keeps_channels (hQ : ChannelStable P s.sampleRom lengthOk Q) {key velocity : Nat} {dur : Int} (hk : key ≤ 127)
    (hv : velocity ≤ 127) (hd : lengthOk dur) (h : ∀ c, Q c s.channels[c]) : ∀ c, Q c (startVoice s key velocity dur).channels[c] := by
  obtain hx | ⟨i, d, hi, hfit, hd', hx⟩ := startVoice_cases s key velocity dur
  · rw [hx]; exact h
  · intro c
    rw [hx, State.setChannel_at]
    split
    · next hdc =>
      subst hdc
      obtain ⟨-, -, hrange, -⟩ := bankLookup_some hi
      exact hQ.init _ _ _ _ _ _ _ _ (allocate_class hd') hrange hfit hk hv hd (h _)
    · exact h c

/-- Commands write channels by starting a voice or by releasing some (R221, R223, R249). -/
theorem execute_keeps_channels (hQ : ChannelStable P s.sampleRom lengthOk Q) {i : Instr}
    (hd : ∀ dur, noteLength i = some dur → lengthOk dur) (hx : execute i s = .next t) (h : ∀ c, Q c s.channels[c]) :
    ∀ c, Q c t.channels[c] := by
  cases commandShape P i with
  | register f g hr _ _ =>
    obtain ⟨e, _, rfl⟩ := retire_next (hr s ▸ hx)
    exact h
  | note key velocity dur hr _ hdur =>
    obtain ⟨e, _, rfl⟩ := noteOn_next (hr s ▸ hx)
    exact startVoice_keeps_channels (s := s.setTrack _ _) hQ (transposedKey_le ..) (noteVelocity_le ..) (hd dur hdur) h
  | endOfTie key hr _ =>
    obtain ⟨e, _, rfl⟩ := retire_next (hr s ▸ hx)
    intro c
    rw [State.setTrack_channels, State.mapChannels_at]
    split
    · exact hQ.release c _ (h c)
    · exact h c
  | trackOpen _ _ hi =>
    obtain ⟨e, _, rfl⟩ := execTrackOpen_next (hi ▸ hx)
    exact h
  | jump _ hi => cases hi; cases hx; exact h
  | call _ hi =>
    obtain ⟨_, e, _, rfl⟩ := execCall_next (hi ▸ hx)
    exact h
  | loop _ hi =>
    obtain ⟨_, e, _, rfl⟩ := execLoop_next (hi ▸ hx)
    exact h
  | loopend hi => obtain ⟨_, _, _, rfl⟩ | ⟨_, _, _, _, _, rfl⟩ | ⟨_, _, _, _, rfl⟩ := execLoopend_next (hi ▸ hx) <;> exact h
  | ret hi =>
    obtain ⟨_, _, _, rfl⟩ := execRet_next (hi ▸ hx)
    exact h
  | fine hi =>
    cases hi; cases hx
    intro c
    rw [State.mapChannels_at]
    split
    · exact hQ.release c _ (h c)
    · exact h c

theorem afterQuantum_keeps_channels (hQ : ChannelStable P s.sampleRom lengthOk Q) (h : ∀ c, Q c s.channels[c]) :
    ∀ c, Q c s.afterQuantum.channels[c] := by
  intro c
  rw [State.afterQuantum_channel]
  generalize P.samplesPerFrame = n
  induction n with
  | zero => exact h c
  | succ n ih =>
    rw [Function.iterate_succ_apply']
    generalize (Channel.afterSample P s.sampleRom)^[n] s.channels[c] = ch at ih
    unfold Channel.afterSample
    split
    · exact hQ.render c ch ih
    · exact ih

theorem trackPre_channel (job : TickJob) (s : State P) (c : P.Chan) : (trackPre job s).channels[c] = s.tickChannel s.cur c := vecOfFn_fin ..

/-- A property of channels that the channel operations keep is kept by every move of the block. -/
theorem Move.keeps_channels (m : Move s t) (hQ : ChannelStable P s.sampleRom lengthOk Q)
    (hd : ∀ e, s.fetch = some e → ∀ dur, noteLength e.cmd = some dur → lengthOk dur) (h : ∀ c, Q c s.channels[c]) :
    ∀ c, Q c t.channels[c] := by
  have died (cs : List HostCmd) (c : P.Chan) : Q c ({ s with taken := cs } : State P).rewind.channels[c] := by
    rw [State.rewind_channel]; exact hQ.die c _ (h c)
  have regained (c : P.Chan) : Q c (s.mapChannels s.regainChannel).channels[c] := by
    rw [State.mapChannels_at]
    obtain hx | ⟨u, i, -, -, -, hx⟩ := regainChannel_cases s s.channels[c] <;> rw [hx]
    · exact h c
    · exact hQ.regain c _ _ _ (h c)
  cases m with
  | playStarts cs => exact died cs
  | stops cs => exact died cs
  | seekStarts cs => exact died cs
  | shutsDown cs => exact died cs
  | loads cs => exact died cs
  | loadFails cs => exact died cs
  | finishesPlayed =>
    have hq := afterQuantum_keeps_channels hQ h
    obtain hx | hx := endCheck_cases s.afterQuantum <;> simp only [hx]
    · exact hq
    · intro c
      rw [State.stopAll_channel]
      exact hQ.die c _ (hq c)
  | runs e hp hrun he hx => exact execute_keeps_channels hQ (hd e he) hx h
  | passEndsInPlay => exact regained
  | passEndsInSeek => exact regained
  | tickEnds job => simp only [loopCheck_channels]; exact regained
  | trackTicks job =>
    intro c
    rw [trackPre_channel]
    unfold State.tickChannel
    split
    · exact hQ.tick c _ (h c)
    · exact h c
  | frameBegins | commandIgnored | playResumes | pauses | fadesIn | accumulates | finishesSilent | passNext | frameTickBegins |
    seekTickBegins | seekEnds | tickNext => exact h

end

/-! ### O29 -/

theorem Channel.countdown_owner (ch : Channel) : ch.countdown.owner = ch.owner := by rw [Channel.countdown_eq]

theorem Channel.countdown_dead (ch : Channel) : ch.countdown.state = .dead ↔ ch.state = .dead := by
  obtain h | ⟨h, hs⟩ := ch.countdown_state
  · rw [h]
  · obtain ⟨hlive, -⟩ := ch.sounding_iff.1 hs
    simp [h, hlive]

/-- An envelope step by any law takes the owner away exactly when it kills the channel (R320). -/
theorem Channel.envStep_owner_iff (law : EnvLaw) {ch : Channel} (h : ch.owner = none ↔ ch.state = .dead) :
    (ch.envStep law).owner = none ↔ (ch.envStep law).state = .dead := by
  obtain ⟨-, hx⟩ | ⟨l, st, hlive, hst, -, hx⟩ | ⟨l, -, -, hx⟩ := ch.envStep_cases law <;> rw [hx]
  · exact h
  · exact iff_of_false (fun ho => hlive (h.1 ho)) hst
  · exact iff_of_true rfl rfl

theorem ownersMatchLife_stable (P : Profile) (rom : Memory) :
    ChannelStable P rom (fun _ => True) fun _ ch => ch.owner = none ↔ ch.state = .dead where
  die _ _ _ := iff_of_true rfl rfl
  release _ ch h := by rw [ch.release_owner, ch.release_dead]; exact h
  tick c ch h := Channel.envStep_owner_iff _ (by rw [ch.countdown_owner, ch.countdown_dead]; exact h)
  regain _ _ _ _ h := h
  render c ch h := by
    obtain ⟨hs, ho⟩ | ⟨hs, ho⟩ := renderChannel_life ch P rom
    · rw [hs, ho]; exact h
    · exact iff_of_true ho hs
  init _ _ _ _ _ _ _ _ _ _ _ _ _ _ _ := iff_of_false nofun nofun

/-- Settles O29: the channel operations give and take the owner together with the channel's life. -/
theorem stepKeepsOwners : Obligations.step_keeps_owners := by
  intro s t h hs
  exact (advance_move hs).keeps_channels (ownersMatchLife_stable _ _) (fun _ _ _ _ => trivial) h

end Sys2Proof.Machine

end

/-! ## The ranges of the channels (10_state.md R49, R51) -/

section

namespace Sys2Proof.Machine

/-! ### Gains and phase increments (R327 to R329, R335) -/

theorem amplitude_bounds (t : Track) (velocity level : Nat) : 0 ≤ amplitude t velocity level ∧ amplitude t velocity level ≤ 127 := by
  unfold amplitude
  split
  · decide
  · exact clamp_bounds _ _ _ (by decide)

/-- An amplitude of at most 127 times a pan factor of at most 128 gives a gain of at most 127 (R335). -/
theorem gain_le {a p : Int} (ha : 0 ≤ a ∧ a ≤ 127) (hp : 0 ≤ p ∧ p ≤ 128) : (asr (a * p) 7).toNat ≤ 127 := by
  have hmul : a * p ≤ 127 * 128 := mul_le_mul ha.2 hp.2 hp.1 (by decide)
  have h128 : ((2 ^ 7 : Nat) : Int) = 128 := rfl
  unfold asr
  omega

theorem recomputeGain_gains (P : Profile) (t : Track) (i : Instrument) (ch : Channel) :
    (recomputeGain P t i ch).gainL ≤ 127 ∧ (recomputeGain P t i ch).gainR ≤ 127 := by
  have ha := amplitude_bounds t ch.velocity ch.level
  have hp : -64 ≤ panOfTrack t ∧ panOfTrack t ≤ 63 := clamp_bounds _ _ _ (by decide)
  exact ⟨gain_le ha (by omega), gain_le ha (by omega)⟩

/-- A search over `bits` bits adds less than 2^bits. -/
theorem greatest_lt (ok : Nat → Bool) (bits acc : Nat) : greatest ok bits acc < acc + 2 ^ bits := by
  induction bits generalizing acc with
  | zero => simp [greatest]
  | succ n ih =>
    have hhigh := ih (acc + 2 ^ n)
    have hlow := ih acc
    unfold greatest
    rw [Nat.pow_succ]
    split <;> omega

theorem scaledStep_lt (num den : Nat) (cents : Int) : scaledStep num den cents < 4294967296 := by
  have h := greatest_lt (powLe num den cents) 32 0
  rwa [Nat.zero_add] at h

theorem referenceFreqLaw_lt (outRate : Nat) (c : VoiceClass) (i : Instrument) (cents : Int) :
    referenceFreqLaw outRate c i cents < 4294967296 := by
  unfold referenceFreqLaw
  split
  · exact scaledStep_lt ..
  · exact max_lt (by decide) (scaledStep_lt ..)

/-! ### The ADPCM decoder (R51, R352 to R363) -/

theorem Memory.halfNat_lt (m : Memory) (a : Nat) : m.halfNat a < 65536 := by
  have h0 : m.byteNat a < 256 := BitVec.isLt _
  have h1 : m.byteNat (a + 1) < 256 := BitVec.isLt _
  unfold Memory.halfNat
  omega

theorem sext16_isS16 {n : Nat} (h : n < 65536) : isS16 (sext16 n) := by
  unfold isS16 sext16
  split <;> omega

variable (P : Profile) (rom : Memory) (g : Region)

theorem Codec.init_inRange : (Codec.init P rom g).inRange := ⟨sext16_isS16 (rom.halfNat_lt _), nofun⟩

variable {q : Codec}

theorem Codec.decode_inRange (b : Nat) (h : q.inRange) : (q.decode P b).inRange := by
  refine ⟨?_, h.2⟩
  unfold Codec.decode isS16
  dsimp only
  split <;> exact clampS16_bounds _

theorem Codec.trySnapshot_inRange (h : q.inRange) : (q.trySnapshot g).inRange := by
  unfold Codec.trySnapshot
  split
  · refine ⟨h.1, fun p hp => ?_⟩
    cases hp
    exact h.1
  · exact h

theorem Codec.advanceBy_inRange (n : Nat) (h : q.inRange) : (Codec.advanceBy P rom g n q).inRange := by
  induction n generalizing q with
  | zero => exact h
  | succ n ih => exact ih (Codec.decode_inRange P _ (Codec.trySnapshot_inRange g h))

theorem Codec.wrap_inRange (h : q.inRange) : (q.wrap P rom g).inRange := by
  unfold Codec.wrap
  split
  · next p hp => exact ⟨h.2 p hp, h.2⟩
  · exact Codec.trySnapshot_inRange g (Codec.advanceBy_inRange P rom g _ h)

variable {ch : Channel}

theorem resample_codec_inRange (h : ch.codec.inRange) : (resample P rom g ch).2.inRange := by
  unfold resample
  split
  · exact Codec.advanceBy_inRange P rom g _ h
  · split <;> exact h

theorem renderPcm_codec_inRange (h : ch.codec.inRange) : (renderPcm P rom g ch).2.codec.inRange := by
  have hres := resample_codec_inRange P rom g h
  unfold renderPcm Channel.endCheck
  dsimp only
  split
  · split
    · unfold Channel.wrap
      dsimp only
      split
      · exact Codec.wrap_inRange P rom g hres
      · exact hres
    · exact hres
  · exact hres

/-! ### Rendering writes the render position, the codec, the state and the owner only (R384, R405, R421) -/

theorem renderChannel_frame (ch : Channel) :
    ∃ st o pos frac phase lfsr q, (ch.codec.inRange → q.inRange) ∧ (st = ch.state ∨ st = .dead) ∧
      (renderChannel P rom ch).2 =
        { ch with state := st, owner := o, pos := pos, frac := frac, phase := phase, lfsr := lfsr, codec := q } := by
  have hlife : (renderChannel P rom ch).2.state = ch.state ∨ (renderChannel P rom ch).2.state = .dead :=
    (renderChannel_life ch P rom).imp And.left And.left
  unfold renderChannel at hlife ⊢
  split
  · exact ⟨_, _, _, _, _, _, _, id, .inl rfl, rfl⟩
  · next i hi =>
    rw [hi] at hlife
    dsimp only at hlife
    split
    · next g hg =>
      rw [hg] at hlife
      exact ⟨_, _, _, _, _, _, _, renderPcm_codec_inRange P rom g, hlife, renderPcm_frame ch P rom g⟩
    · exact ⟨_, _, _, _, _, _, _, id, .inl rfl, rfl⟩
    · exact ⟨_, _, _, _, _, _, _, id, .inl rfl, rfl⟩
    · exact ⟨_, _, _, _, _, _, _, id, .inl rfl, rfl⟩

/-! ### O36 -/

/-- What one tick of a channel writes: its state, owner, level and remaining duration. -/
theorem Channel.tick_frame (law : EnvLaw) (ch : Channel) :
    ∃ st o l, (st ≠ .dead → ch.state ≠ .dead) ∧ (l = ch.level ∨ l = (law ch.countdown.envPoint).2) ∧
      ch.tick law = { ch with state := st, owner := o, level := l, durLeft := ch.countdown.durLeft } := by
  have hc := ch.countdown_eq
  have hdead := ch.countdown_dead
  have hlevel : ch.countdown.level = ch.level := by rw [hc]
  unfold Channel.tick
  obtain ⟨-, hx⟩ | ⟨l, st, hlive, hst, hlaw, hx⟩ | ⟨l, hlive, hlaw, hx⟩ := ch.countdown.envStep_cases law
  · exact ⟨ch.countdown.state, ch.owner, ch.level, mt hdead.2, .inl rfl, by rw [hx, hc]⟩
  · exact ⟨st, ch.owner, l, fun _ => mt hdead.2 hlive, .inr (by rw [hlaw]), by rw [hx, hc]⟩
  · exact ⟨.dead, none, l, fun h => absurd rfl h, .inr (by rw [hlaw]), by rw [hx, hc]; rfl⟩

theorem Channel.countdown_durLeft (ch : Channel) : ch.countdown.durLeft = ch.durLeft ∨
    (0 < ch.durLeft ∧ ch.countdown.durLeft = ch.durLeft - 1) := by
  unfold Channel.countdown
  split
  · next h => exact .inr ⟨h.1, rfl⟩
  · exact .inl rfl

/-- A note's duration is at least -1 and below 2^28 (R49). -/
def durationInRange (dur : Int) : Prop := -1 ≤ dur ∧ dur < 268435456

theorem noteLength_inRange {i : Instr} {dur : Int} (hi : i.WellFormed) (h : noteLength i = some dur) : durationInRange dur := by
  have bounded {d : Nat} (hd : vlqOk d = true) : durationInRange (noteDuration d) := by
    have := (vlqOk_iff d).1 hd
    unfold durationInRange noteDuration
    omega
  unfold noteLength at h
  split at h <;> cases h
  · exact bounded (Bool.and_eq_true_iff.1 hi).2
  · exact bounded (Bool.and_eq_true_iff.1 hi).2
  · exact ⟨by decide, by decide⟩

theorem recomputeGain_inRange (t : Track) (i : Instrument) (h : ch.inRange) :
    (recomputeGain Profile.reference t i ch).inRange := by
  obtain ⟨hkey, hvel, hlo, hhi, hlevel, -, -, -, hcodec⟩ := h
  obtain ⟨hL, hR⟩ := recomputeGain_gains Profile.reference t i ch
  exact ⟨hkey, hvel, hlo, hhi, hlevel, hL, hR, referenceFreqLaw_lt _ i.cls _ _, hcodec⟩

theorem Channel.inRange_stable (rom : Memory) : ChannelStable Profile.reference rom durationInRange fun _ ch => ch.inRange where
  die _ _ h := h
  release _ ch h := by rw [ch.release_eq]; exact h
  tick c ch h := by
    obtain ⟨st, o, l, -, hl, hx⟩ := ch.tick_frame (Profile.reference.envLaw (Profile.reference.classOf c))
    obtain ⟨hkey, hvel, hlo, hhi, hlevel, hrest⟩ := h
    have hle : ch.countdown.level ≤ 255 := by rw [ch.countdown_eq]; exact hlevel
    have hl' : l ≤ 255 := by
      obtain rfl | rfl := hl
      · exact hlevel
      · exact referenceEnvLaw_level hle
    rw [hx]
    obtain hd | ⟨hpos, hd⟩ := ch.countdown_durLeft
    · exact ⟨hkey, hvel, by rw [hd]; exact hlo, by rw [hd]; exact hhi, hl', hrest⟩
    · exact ⟨hkey, hvel, by simp only [hd]; omega, by simp only [hd]; omega, hl', hrest⟩
  regain _ _ t i h := recomputeGain_inRange t i h
  render _ ch h := by
    obtain ⟨st, o, pos, frac, phase, lfsr, q, hq, -, hx⟩ := renderChannel_frame Profile.reference rom ch
    obtain ⟨hkey, hvel, hlo, hhi, hlevel, hL, hR, hstep, hcodec⟩ := h
    rw [hx]
    exact ⟨hkey, hvel, hlo, hhi, hlevel, hL, hR, hstep, hq hcodec⟩
  init _ ch o t key velocity dur i _ _ _ hkey hvel hdur h := by
    obtain ⟨-, -, -, -, -, hL, hR, hstep, hcodec⟩ := h
    have hinit : (initCodec Profile.reference rom i ch.codec).inRange := by
      unfold initCodec
      split
      · split
        · exact Codec.init_inRange ..
        · exact hcodec
      · exact hcodec
    exact recomputeGain_inRange t i ⟨hkey, hvel, hdur.1, hdur.2, Nat.zero_le 255, hL, hR, hstep, hinit⟩

/-- A live channel's record is of the class of its pool, for any profile. -/
def Channel.ofClass (c : VoiceClass) (ch : Channel) : Prop := ch.live = true → ∃ i, ch.inst = some i ∧ i.cls = c

/-- A channel that keeps its record, and is live only if it was, stays of its class. -/
theorem Channel.ofClass_of_inst {c : VoiceClass} {ch ch' : Channel} (h : ch.ofClass c) (hi : ch'.inst = ch.inst)
    (hl : ch'.state ≠ .dead → ch.state ≠ .dead) : ch'.ofClass c := by
  intro hlive
  rw [hi]
  exact h (ch.live_iff.2 (hl (ch'.live_iff.1 hlive)))

theorem Channel.ofClass_stable (P : Profile) (rom : Memory) :
    ChannelStable P rom (fun _ => True) fun c ch => ch.ofClass (P.classOf c) where
  die _ _ _ := nofun
  release _ ch h := Channel.ofClass_of_inst h ch.release_inst (mt ch.release_dead.2)
  tick _ ch h := by
    obtain ⟨st, o, l, hst, -, hx⟩ := ch.tick_frame _
    rw [hx]
    exact Channel.ofClass_of_inst h rfl hst
  regain _ _ _ _ h := h
  render _ ch h := by
    obtain ⟨st, o, pos, frac, phase, lfsr, q, -, hst, hx⟩ := renderChannel_frame P rom ch
    rw [hx]
    refine Channel.ofClass_of_inst h rfl fun hlive => ?_
    obtain rfl | rfl := hst
    · exact hlive
    · exact absurd rfl hlive
  init _ _ _ _ _ _ _ i hc _ _ _ _ _ _ := fun _ => ⟨i, rfl, hc.symm⟩

/-- Settles O36: each channel operation keeps the ranges, the durations being those of well-formed commands; and `Allocate` answers a
channel of the class asked for. -/
theorem stepKeepsChannelRanges : Obligations.step_keeps_channel_ranges := by
  intro s t hs
  have m : Move s t := advance_move hs
  refine ⟨fun hwf h => ?_, fun h => ?_⟩
  · exact m.keeps_channels (Channel.inRange_stable _) (fun e he _ hd => noteLength_inRange (hwf _ _ e he) hd) h
  · exact m.keeps_channels (Channel.ofClass_stable _ _) (fun _ _ _ _ => trivial) h

end Sys2Proof.Machine

end

/-! ## What the structural walk of a load promises (40_sequence_decoder.md R180 to R189) -/

section

namespace Sys2Proof.Machine

/-- A command of `len` bytes at offset `p` of track `t` leads its track, or the track it opens, to an offset (R181, R186). -/
inductive LeadsTo (t : TrackId) (p len : Nat) (i : Instr) : TrackId → Nat → Prop
  | falls (h : fallsThrough i) : LeadsTo t p len i t (p + len)
  | jumps (x : Off24) (h : i = .jump x) : LeadsTo t p len i t x.toNat
  | calls (x : Off24) (h : i = .call x) : LeadsTo t p len i t x.toNat
  | opens (u : TrackId) (x : Off24) (h : i = .trackOpen u x) : LeadsTo t p len i u x.toNat

/-! ### The sorted lists (R189) -/

theorem lookupWalk_insertWalk (es : List (Nat × WalkEntry)) (x : Nat) (e : WalkEntry) (y : Nat) :
    lookupWalk (insertWalk es x e) y = if x = y then some e else lookupWalk es y := by
  induction es with
  | nil => rfl
  | cons a es ih =>
    obtain ⟨p, d⟩ := a
    unfold insertWalk
    split
    · rfl
    · split
      · next hxp =>
        subst hxp
        by_cases hxy : x = y <;> simp [lookupWalk, hxy]
      · next hne =>
        by_cases hpy : p = y
        · have hxy : x ≠ y := fun h => hne (h.trans hpy.symm)
          simp [lookupWalk, hpy, hxy]
        · simp [lookupWalk, hpy, ih]

/-- The entry the lists hold for an offset of a track. -/
def walkEntryAt (tables : WalkTables) (t : TrackId) (p : Nat) : Option WalkEntry := lookupWalk tables[t] p

theorem Walk.enter_entryAt (w : Walk) (d : Decoded) (u : TrackId) (q : Nat) :
    walkEntryAt (w.enter d).tables u q =
      if w.t = u ∧ w.p = q then some ⟨d.cmd, d.len, d.viaRs⟩ else walkEntryAt w.tables u q := by
  unfold walkEntryAt Walk.enter
  dsimp only
  rw [vec_set_fin]
  by_cases hu : w.t = u
  · subst hu
    simp [lookupWalk_insertWalk]
  · simp [hu]

/-! ### The invariant of the walk (R186) -/

/-- What the walk still has to visit besides its position: the continuations of its calls and the queue. -/
def Walk.waiting (w : Walk) (u : TrackId) (q : Nat) : Prop := (u = w.t ∧ ∃ f ∈ w.frames, f.p = q) ∨ (u, q) ∈ w.pending

/-- What the walk still has to visit, its position included. -/
def Walk.owed (w : Walk) (u : TrackId) (q : Nat) : Prop := (u = w.t ∧ q = w.p) ∨ w.waiting u q

/-- The lists hold only commands decoded from the song's bytes, and every start and everything a command of them leads to is in them or
still owed. -/
structure WalkClosed (P : Profile) (song : Song) (tables : WalkTables) (owed : TrackId → Nat → Prop) : Prop where
  decoded : ∀ t p e, walkEntryAt tables t p = some e → p < song.rom.len ∧ ∃ rs d,
    decodeAt P.toDecodeProfile rs (song.rom.bytesFrom p maxFormatBytes) = .ok d ∧ d.cmd = e.cmd ∧ d.len = e.len
  start : ∀ t x, song.starts[t] = some x → (walkEntryAt tables t x.toNat).isSome = true ∨ owed t x.toNat
  next : ∀ t p e, walkEntryAt tables t p = some e → ∀ u q, LeadsTo t p e.len e.cmd u q →
    (walkEntryAt tables u q).isSome = true ∨ owed u q

/-- The outcome of a move keeps the invariant; an error promises nothing. -/
def WalkOut.closed (P : Profile) (song : Song) : WalkOut → Prop
  | .more w => WalkClosed P song w.tables w.owed
  | .done tables => WalkClosed P song tables fun _ _ => False
  | .error _ => True

variable {P : Profile} {song : Song}

/-- What is owed may be exchanged for anything that covers what is not yet in the lists. -/
theorem WalkClosed.mono {tables : WalkTables} {owed owed' : TrackId → Nat → Prop} (h : WalkClosed P song tables owed)
    (hle : ∀ u q, owed u q → (walkEntryAt tables u q).isSome = true ∨ owed' u q) : WalkClosed P song tables owed' where
  decoded := h.decoded
  start t x hx := (h.start t x hx).elim .inl (hle _ _)
  next t p e he u q hl := (h.next t p e he u q hl).elim .inl (hle _ _)

theorem pathDone_closed {w : Walk} (h : WalkClosed P song w.tables w.waiting) : w.pathDone.closed P song := by
  unfold Walk.pathDone
  split
  · next f fs hf =>
    refine h.mono fun u q hw => .inr ?_
    obtain ⟨hu, g, hg, hq⟩ | hq := hw
    · rw [hf] at hg
      obtain rfl | hg := List.mem_cons.1 hg
      · exact .inl ⟨hu, hq.symm⟩
      · exact .inr (.inl ⟨hu, g, hg, hq⟩)
    · exact .inr (.inr hq)
  · next hf =>
    split
    · next hp =>
      refine h.mono fun u q hw => ?_
      obtain ⟨-, g, hg, -⟩ | hq := hw
      · rw [hf] at hg; cases hg
      · rw [hp] at hq; cases hq
    · next t p rest hp =>
      refine h.mono fun u q hw => .inr ?_
      obtain ⟨-, g, hg, -⟩ | hq := hw
      · rw [hf] at hg; cases hg
      · rw [hp] at hq
        obtain heq | hq := List.mem_cons.1 hq
        · cases heq; exact .inl ⟨rfl, rfl⟩
        · exact .inr (.inr hq)

/-- A command just entered owes what it leads to, and its position nothing more. -/
theorem enter_closed {w : Walk} {d : Decoded} (h : WalkClosed P song w.tables w.owed) (hp : w.p < song.rom.len)
    (hd : decodeAt P.toDecodeProfile w.rs (song.rom.bytesFrom w.p maxFormatBytes) = .ok d) :
    WalkClosed P song (w.enter d).tables fun u q => w.waiting u q ∨ LeadsTo w.t w.p d.len d.cmd u q := by
  have known : ∀ u q, (walkEntryAt w.tables u q).isSome = true ∨ w.owed u q →
      (walkEntryAt (w.enter d).tables u q).isSome = true ∨ (w.waiting u q ∨ LeadsTo w.t w.p d.len d.cmd u q) := by
    intro u q hk
    rw [w.enter_entryAt d u q]
    split
    · exact .inl rfl
    · next hne =>
      obtain hk | ⟨hu, hq⟩ | hk := hk
      · exact .inl hk
      · exact absurd ⟨hu.symm, hq.symm⟩ hne
      · exact .inr (.inl hk)
  refine ⟨fun t p e he => ?_, fun t x hx => known _ _ (h.start t x hx), fun t p e he u q hl => ?_⟩
  · rw [w.enter_entryAt] at he
    split at he
    · next heq => obtain ⟨-, rfl⟩ := heq; cases he; exact ⟨hp, w.rs, d, hd, rfl, rfl⟩
    · exact h.decoded t p e he
  · rw [w.enter_entryAt] at he
    split at he
    · next heq => obtain ⟨rfl, rfl⟩ := heq; cases he; exact .inr (.inr hl)
    · exact known u q (h.next t p e he u q hl)

/-- Where the path goes after a command is owed to everything the command leads to (R181). -/
theorem follow_closed {w : Walk} {d : Decoded} (rom : Memory)
    (h : WalkClosed P song w.tables fun u q => w.waiting u q ∨ LeadsTo w.t w.p d.len d.cmd u q) :
    (w.follow P rom d).closed P song := by
  have ends (hi : d.cmd = .fine ∨ d.cmd = .ret) : w.pathDone.closed P song := by
    refine pathDone_closed (h.mono fun u q hq => .inr ?_)
    obtain hq | hl := hq
    · exact hq
    · obtain ⟨hf, hr, -⟩ | ⟨x, hx⟩ | ⟨x, hx⟩ | ⟨_, x, hx⟩ := hl
      · obtain hi | hi := hi <;> contradiction
      all_goals rw [hx] at hi; simp at hi
  have raises (k : LoadErrorKind) : (w.raise rom k).closed P song := trivial
  cases hd : d.cmd with
  | fine => simp only [Walk.follow, hd]; exact ends (.inl hd)
  | ret => simp only [Walk.follow, hd]; exact ends (.inr hd)
  | jump x =>
    simp only [Walk.follow, hd]
    split
    · exact raises _
    · refine h.mono fun u q hq => .inr ?_
      rw [hd] at hq
      obtain hq | ⟨hf, hr, hj⟩ | ⟨y, hy⟩ | ⟨y, hy⟩ | ⟨_, y, hy⟩ := hq
      · exact .inr hq
      · exact absurd rfl (hj x)
      · cases hy; exact .inl ⟨rfl, rfl⟩
      · cases hy
      · cases hy
  | call x =>
    simp only [Walk.follow, hd]
    split
    · exact raises _
    · split
      · exact raises _
      · refine h.mono fun u q hq => .inr ?_
        rw [hd] at hq
        obtain (⟨hu, f, hf, hq⟩ | hq) | hl | ⟨y, hy⟩ | ⟨y, hy⟩ | ⟨_, y, hy⟩ := hq
        · exact .inr (.inl ⟨hu, f, List.mem_cons_of_mem _ hf, hq⟩)
        · exact .inr (.inr hq)
        · exact .inr (.inl ⟨rfl, _, List.mem_cons_self .., rfl⟩)
        · cases hy
        · cases hy; exact .inl ⟨rfl, rfl⟩
        · cases hy
  | trackOpen i x =>
    simp only [Walk.follow, hd]
    refine h.mono fun u q hq => .inr ?_
    rw [hd] at hq
    obtain (hq | hq) | hl | ⟨y, hy⟩ | ⟨y, hy⟩ | ⟨v, y, hy⟩ := hq
    · exact .inr (.inl hq)
    · exact .inr (.inr (List.mem_append_left _ hq))
    · exact .inl ⟨rfl, rfl⟩
    · cases hy
    · cases hy
    · cases hy; exact .inr (.inr (List.mem_append_right _ (List.mem_singleton_self _)))
  | _ =>
    simp only [Walk.follow, hd]
    refine h.mono fun u q hq => .inr ?_
    rw [hd] at hq
    obtain hq | hl | ⟨y, hy⟩ | ⟨y, hy⟩ | ⟨_, y, hy⟩ := hq
    · exact .inr hq
    · exact .inl ⟨rfl, rfl⟩
    all_goals cases hy

/-- One iteration keeps the invariant. -/
theorem walkStep_closed {w : Walk} (h : WalkClosed P song w.tables w.owed) : (w.step P song.rom).closed P song := by
  unfold Walk.step
  split
  · trivial
  · split
    · next e he =>
      split
      · trivial
      · refine pathDone_closed (h.mono fun u q hq => ?_)
        obtain ⟨rfl, rfl⟩ | hq := hq
        · exact .inl (by rw [walkEntryAt, he]; rfl)
        · exact .inr hq
    · split
      · trivial
      · next d hd => exact follow_closed (w := w.enter d) song.rom (enter_closed h (by omega) hd)

/-- A successful walk owes nothing (R186), and a failing one raises a load error or runs past its bound (R187). -/
theorem walkLoop_closed {n : Nat} {w : Walk} (h : WalkClosed P song w.tables w.owed) :
    (∀ tables, walkLoop P song.rom n w = .ok tables → WalkClosed P song tables fun _ _ => False) ∧
      walkLoop P song.rom n w ≠ .error (.fault .noCommand) := by
  induction n generalizing w with
  | zero => exact ⟨nofun, nofun⟩
  | succ n ih =>
    have hstep := walkStep_closed h
    unfold walkLoop
    cases hout : w.step P song.rom with rw [hout] at hstep
    | more w' => exact ih hstep
    | done tables => exact ⟨fun _ hx => by cases hx; exact hstep, nofun⟩
    | error e => exact ⟨nofun, nofun⟩

theorem mem_startPairs {starts : StartTable} {t : TrackId} {q : Nat} :
    (t, q) ∈ startPairs starts ↔ ∃ x, starts[t] = some x ∧ x.toNat = q := by
  unfold startPairs
  rw [List.mem_filterMap]
  constructor
  · rintro ⟨u, -, hu⟩
    split at hu
    · next x hx => cases hu; exact ⟨x, hx, rfl⟩
    · cases hu
  · rintro ⟨x, hx, rfl⟩
    exact ⟨t, List.mem_finRange t, by rw [hx]⟩

theorem walkEntryAt_empty (t : TrackId) (p : Nat) : walkEntryAt (Vector.replicate Config.maxTracks []) t p = none := by
  simp [walkEntryAt, lookupWalk]

/-- No entry yet: everything owed is a start. -/
theorem walkClosed_empty {owed : TrackId → Nat → Prop} (h : ∀ t x, song.starts[t] = some x → owed t x.toNat) :
    WalkClosed P song (Vector.replicate Config.maxTracks []) owed where
  decoded t p e he := by rw [walkEntryAt_empty] at he; cases he
  start t x hx := .inr (h t x hx)
  next t p e he := by rw [walkEntryAt_empty] at he; cases he

/-- R186: the lists of a successful walk are closed; a walk never stops for want of a command. -/
theorem walk_closed (P : Profile) (song : Song) :
    (∀ tables, walk P song = .ok tables → WalkClosed P song tables fun _ _ => False) ∧
      walk P song ≠ .error (.fault .noCommand) := by
  have pairs : ∀ t x, song.starts[t] = some x → (t, x.toNat) ∈ startPairs song.starts :=
    fun t x hx => mem_startPairs.2 ⟨x, hx, rfl⟩
  unfold walk
  split
  · next hnil =>
    refine ⟨fun _ hx => ?_, nofun⟩
    cases hx
    exact walkClosed_empty fun t x hx => by have := pairs t x hx; rw [hnil] at this; cases this
  · next t p rest hcons =>
    refine walkLoop_closed (walkClosed_empty fun u x hx => ?_)
    have hmem := pairs u x hx
    rw [hcons] at hmem
    obtain heq | hmem := List.mem_cons.1 hmem
    · cases heq; exact .inl ⟨rfl, rfl⟩
    · exact .inr (.inr hmem)

end Sys2Proof.Machine

end

/-! ## The track register files along a command (10_state.md R41 to R44, 41_track_commands.md R220 to R250) -/

section

namespace Sys2Proof.Machine

variable {P : Profile} {s t : State P}

/-! ### What a command does to the tracks -/

/-- What a command at offset `p`, `len` bytes long, can do to the register file of its own track. -/
inductive TrackMove (i : Instr) (p len depth : Nat) (x : Track) : Track → Prop
  | writes (f : Track → Track) (hi : fallsThrough i) (hf : WritesRegister i f) :
      TrackMove i p len depth x { f x with cursor := p + len }
  | jumps (target : Off24) (hi : i = .jump target) : TrackMove i p len depth x { x with cursor := target.toNat }
  | calls (target : Off24) (hi : i = .call target) (hd : x.stack.length < depth) :
      TrackMove i p len depth x { x with stack := .call (p + len) :: x.stack, cursor := target.toNat }
  | returns (r : Nat) (rest : List StackEntry) (hi : i = .ret) (hs : x.stack = .call r :: rest) :
      TrackMove i p len depth x { x with stack := rest, cursor := r }
  | loops (count : Byte) (hi : i = .loop count) (hd : x.stack.length < depth) :
      TrackMove i p len depth x { x with stack := .loop (p + len) count.toNat :: x.stack, cursor := p + len }
  | repeats (body : Nat) (rest : List StackEntry) (hi : i = .loopend) (hs : x.stack = .loop body 0 :: rest) :
      TrackMove i p len depth x { x with cursor := body }
  | leaves (body : Nat) (rest : List StackEntry) (hi : i = .loopend) (hs : x.stack = .loop body 1 :: rest) :
      TrackMove i p len depth x { x with stack := rest, cursor := p + len }
  | countsDown (body r : Nat) (rest : List StackEntry) (hi : i = .loopend) (hs : x.stack = .loop body (r + 2) :: rest) :
      TrackMove i p len depth x { x with stack := .loop body (r + 1) :: rest, cursor := body }
  | finishes (hi : i = .fine) : TrackMove i p len depth x { x with stopped := true }

/-- The tracks after the opening that a command may do before it moves its own track (R247). -/
inductive Opening (s : State P) (i : Instr) : Vector Track Config.maxTracks → Prop
  | none : Opening s i s.tracks
  | opens (u : TrackId) (target : Off24) (hi : i = .trackOpen u target) : Opening s i (s.tracks.set u (s.tracks[u].openAt target))

/-- A note-on restarts the LFO (R221). -/
theorem writesRegister_restartLfo (i : Instr) : WritesRegister i Track.restartLfo := ⟨fun _ => ⟨rfl, rfl, rfl⟩, fun _ _ h => h⟩

theorem writesRegister_id (i : Instr) : WritesRegister i id := ⟨fun _ => ⟨rfl, rfl, rfl⟩, fun _ _ h => h⟩

/-- A command opens at most one track and then moves its own (R220). -/
theorem execute_tracks {e : Entry} (he : s.fetch = some e) (hx : execute e.cmd s = .next t) :
    ∃ base y, Opening s e.cmd base ∧ TrackMove e.cmd s.track.cursor e.len P.stackDepth base[s.cur] y ∧
      t.tracks = base.set s.cur y := by
  have same {e' : Entry} (he' : s.fetch = some e') : e' = e := Option.some.inj (he'.symm.trans he)
  cases commandShape P e.cmd with
  | register f g hr hi hf =>
    obtain ⟨e', he', rfl⟩ := retire_next (hr s ▸ hx)
    obtain rfl : e' = e := same he'
    exact ⟨_, _, .none, .writes f hi hf, rfl⟩
  | note key velocity dur hr hi hd =>
    obtain ⟨e', he', rfl⟩ := noteOn_next (hr s ▸ hx)
    obtain rfl : e' = e := same he'
    exact ⟨_, _, .none, .writes _ hi (writesRegister_restartLfo _), by rw [startVoice_frame]; rfl⟩
  | endOfTie key hr hi =>
    obtain ⟨e', he', rfl⟩ := retire_next (hr s ▸ hx)
    obtain rfl : e' = e := same he'
    exact ⟨_, _, .none, .writes _ hi (writesRegister_id _), rfl⟩
  | trackOpen u target hi =>
    obtain ⟨e', he', rfl⟩ := execTrackOpen_next (hi ▸ hx)
    obtain rfl : e' = e := same he'
    have hfalls : fallsThrough e'.cmd := by rw [hi]; exact ⟨nofun, nofun, nofun⟩
    exact ⟨_, _, .opens u target hi, .writes _ hfalls (writesRegister_id _), rfl⟩
  | jump target hi =>
    rw [hi] at hx
    cases hx
    exact ⟨_, _, .none, .jumps target hi, rfl⟩
  | call target hi =>
    obtain ⟨hd, e', he', rfl⟩ := execCall_next (hi ▸ hx)
    obtain rfl : e' = e := same he'
    exact ⟨_, _, .none, .calls target hi hd, rfl⟩
  | loop count hi =>
    obtain ⟨hd, e', he', rfl⟩ := execLoop_next (hi ▸ hx)
    obtain rfl : e' = e := same he'
    exact ⟨_, _, .none, .loops count hi hd, rfl⟩
  | loopend hi =>
    obtain ⟨body, rest, hs, rfl⟩ | ⟨body, rest, e', hs, he', rfl⟩ | ⟨body, r, rest, hs, rfl⟩ := execLoopend_next (hi ▸ hx)
    · exact ⟨_, _, .none, .repeats body rest hi hs, rfl⟩
    · obtain rfl : e' = e := same he'
      exact ⟨_, _, .none, .leaves body rest hi hs, rfl⟩
    · exact ⟨_, _, .none, .countsDown body r rest hi hs, rfl⟩
  | ret hi =>
    obtain ⟨r, rest, hs, rfl⟩ := execRet_next (hi ▸ hx)
    exact ⟨_, _, .none, .returns r rest hi hs, rfl⟩
  | fine hi =>
    rw [hi] at hx
    cases hx
    exact ⟨_, _, .none, .finishes hi, rfl⟩

/-! ### Cursors and return offsets name commands (R42, R186) -/

/-- A command of the installed table leads only to commands of it (R186), for any profile. -/
def State.linked (s : State P) : Prop :=
  ∀ t p e, s.entryAt t p = some e → ∀ u q, LeadsTo t p e.len e.cmd u q → (s.entryAt u q).isSome = true

/-- Unless the track is stopped, its cursor and every offset its stack sends it back to are among the offsets that `has` holds of (R42). -/
def Track.onCommands (has : Nat → Prop) (x : Track) : Prop := x.stopped = false → has x.cursor ∧ ∀ y ∈ x.stack, has y.back

/-- Every track is on commands of its list. -/
def State.cursorsLive (s : State P) : Prop := ∀ t : TrackId, s.tracks[t].onCommands fun p => (s.entryAt t p).isSome = true

/-- Both properties read the song table only through its entries. -/
theorem entryAt_of_song {s t : State P} (h : t.song = s.song) (u : TrackId) (p : Nat) : t.entryAt u p = s.entryAt u p := by
  unfold State.entryAt; rw [h]

theorem TrackMove.onCommands {i : Instr} {p len depth : Nat} {x y : Track} {has : Nat → Prop} {c : TrackId}
    (m : TrackMove i p len depth x y) (hlinks : ∀ q, LeadsTo c p len i c q → has q) (h : x.onCommands has) : y.onCommands has := by
  have behind (hi : fallsThrough i) : has (p + len) := hlinks _ (.falls hi)
  have below {a : StackEntry} {rest : List StackEntry} (hs : x.stack = a :: rest) (hx : x.stopped = false) :
      has a.back ∧ ∀ b ∈ rest, has b.back := by
    have hall := (h hx).2
    rw [hs] at hall
    exact ⟨hall a (List.mem_cons_self ..), fun b hb => hall b (List.mem_cons_of_mem _ hb)⟩
  have push {a : StackEntry} (ha : has a.back) (hx : x.stopped = false) : ∀ b ∈ a :: x.stack, has b.back :=
    List.forall_mem_cons.2 ⟨ha, (h hx).2⟩
  intro hstopped
  cases m with
  | writes f hi hf =>
    obtain ⟨-, hs, hstack⟩ := hf.control x
    refine ⟨behind hi, ?_⟩
    dsimp only
    rw [hstack]
    exact (h (hs.symm.trans hstopped)).2
  | jumps target hi => exact ⟨hlinks _ (.jumps target hi), (h hstopped).2⟩
  | calls target hi hd => exact ⟨hlinks _ (.calls target hi), push (behind (hi ▸ ⟨nofun, nofun, nofun⟩)) hstopped⟩
  | returns r rest hi hs => exact below hs hstopped
  | loops count hi hd =>
    have hb := behind (hi ▸ ⟨nofun, nofun, nofun⟩)
    exact ⟨hb, push hb hstopped⟩
  | repeats body rest hi hs => exact ⟨(below hs hstopped).1, (h hstopped).2⟩
  | leaves body rest hi hs => exact ⟨behind (hi ▸ ⟨nofun, nofun, nofun⟩), (below hs hstopped).2⟩
  | countsDown body r rest hi hs =>
    obtain ⟨hbody, hrest⟩ := below hs hstopped
    exact ⟨hbody, List.forall_mem_cons.2 ⟨hbody, hrest⟩⟩
  | finishes hi => cases hstopped

/-- A track that a command opens starts at the command's target (R247). -/
theorem Opening.onCommands {i : Instr} {base : Vector Track Config.maxTracks} (o : Opening s i base) {len : Nat}
    (hlinks : ∀ u q, LeadsTo s.cur s.track.cursor len i u q → (s.entryAt u q).isSome = true) (h : s.cursorsLive) (v : TrackId) :
    base[v].onCommands fun p => (s.entryAt v p).isSome = true := by
  cases o with
  | none => exact h v
  | opens u target hi =>
    rw [vec_set_fin]
    split
    · next huv =>
      subst huv
      unfold Track.openAt
      split
      · exact h u
      · exact fun _ => ⟨hlinks u _ (.opens u target hi), nofun⟩
    · exact h v

/-- Executing the command at the cursor keeps every track on commands (R42). -/
theorem execute_keeps_cursors {e : Entry} (hl : s.linked) (h : s.cursorsLive) (he : s.fetch = some e)
    (hx : execute e.cmd s = .next t) : t.cursorsLive := by
  obtain ⟨base, y, ho, hm, ht⟩ := execute_tracks he hx
  have hlinks := hl _ _ e he
  intro v
  simp only [entryAt_of_song (execute_song hx)]
  rw [ht, vec_set_fin]
  split
  · next hv =>
    subst hv
    exact hm.onCommands (hlinks s.cur) (ho.onCommands hlinks h s.cur)
  · exact ho.onCommands hlinks h v

/-! ### The ranges of the track registers (R41 to R44) -/

/-- A track's registers are in range when its control state and its operand registers are. -/
theorem Track.inRange_iff (x : Track) :
    x.inRange ↔ (x.opened = false → x.stopped = true) ∧ x.cursor < 16777216 ∧ x.paramsInRange ∧
      x.stack.length ≤ Config.stackDepth ∧ ∀ y ∈ x.stack, y.inRange := by
  unfold Track.inRange Track.paramsInRange
  tauto

theorem Track.reset_inRange (start : Option Off24) : (Track.reset start).inRange := by
  have hcursor : (Track.reset start).cursor < 16777216 := by
    cases start with
    | none => decide
    | some x => exact x.isLt
  have hstopped : (Track.reset start).opened = false → (Track.reset start).stopped = true := by
    cases start <;> simp [Track.reset]
  have hparams : (Track.reset start).paramsInRange := by simp [Track.paramsInRange, Track.reset]
  exact (Track.inRange_iff _).2 ⟨hstopped, hcursor, hparams, Nat.zero_le _, nofun⟩

theorem TrackMove.inRange {i : Instr} {p len : Nat} {x y : Track} (m : TrackMove i p len Config.stackDepth x y)
    (hw : i.WellFormed) (hnext : fallsThrough i → p + len < 16777216) (h : x.inRange) : y.inRange := by
  obtain ⟨hopen, hcursor, hparams, hdepth, hstack⟩ := x.inRange_iff.1 h
  have top {a : StackEntry} {rest : List StackEntry} (hs : x.stack = a :: rest) :
      a.inRange ∧ rest.length < Config.stackDepth ∧ ∀ b ∈ rest, b.inRange := by
    rw [hs] at hdepth hstack
    exact ⟨hstack a (List.mem_cons_self ..), hdepth, fun b hb => hstack b (List.mem_cons_of_mem _ hb)⟩
  rw [Track.inRange_iff]
  cases m with
  | writes f hi hf =>
    obtain ⟨ho, hs, hst⟩ := hf.control x
    refine ⟨?_, hnext hi, hf.ranges hw x hparams, ?_⟩
    · dsimp only; rw [ho, hs]; exact hopen
    · dsimp only; rw [hst]; exact ⟨hdepth, hstack⟩
  | jumps target hi => exact ⟨hopen, target.isLt, hparams, hdepth, hstack⟩
  | calls target hi hd =>
    exact ⟨hopen, target.isLt, hparams, hd, List.forall_mem_cons.2 ⟨hnext (hi ▸ ⟨nofun, nofun, nofun⟩), hstack⟩⟩
  | returns r rest hi hs =>
    obtain ⟨hr, hlen, hrest⟩ := top hs
    exact ⟨hopen, hr, hparams, hlen.le, hrest⟩
  | loops count hi hd =>
    have hn := hnext (hi ▸ ⟨nofun, nofun, nofun⟩)
    exact ⟨hopen, hn, hparams, hd, List.forall_mem_cons.2 ⟨⟨hn, count.isLt⟩, hstack⟩⟩
  | repeats body rest hi hs =>
    obtain ⟨⟨hbody, -⟩, -⟩ := top hs
    exact ⟨hopen, hbody, hparams, hdepth, hstack⟩
  | leaves body rest hi hs =>
    obtain ⟨-, hlen, hrest⟩ := top hs
    exact ⟨hopen, hnext (hi ▸ ⟨nofun, nofun, nofun⟩), hparams, hlen.le, hrest⟩
  | countsDown body r rest hi hs =>
    obtain ⟨⟨hbody, hcount⟩, hlen, hrest⟩ := top hs
    exact ⟨hopen, hbody, hparams, hlen, List.forall_mem_cons.2 ⟨⟨hbody, by omega⟩, hrest⟩⟩
  | finishes hi => exact ⟨fun _ => rfl, hcursor, hparams, hdepth, hstack⟩

theorem Opening.inRange {s : State} {i : Instr} {base : Vector Track Config.maxTracks} (o : Opening s i base) (h : s.tracksInRange)
    (v : TrackId) : base[v].inRange := by
  cases o with
  | none => exact h v
  | opens u target hi =>
    rw [vec_set_fin]
    split
    · unfold Track.openAt
      split
      · exact h u
      · exact Track.reset_inRange _
    · exact h v

theorem execute_keeps_ranges {s t : State} {e : Entry} (he : s.fetch = some e) (hw : e.cmd.WellFormed)
    (hnext : fallsThrough e.cmd → s.track.cursor + e.len < 16777216) (h : s.tracksInRange) (hx : execute e.cmd s = .next t) :
    t.tracksInRange := by
  obtain ⟨base, y, ho, hm, ht⟩ := execute_tracks he hx
  intro v
  rw [ht, vec_set_fin]
  split
  · exact hm.inRange hw hnext (ho.inRange h s.cur)
  · exact ho.inRange h v

end Sys2Proof.Machine

end

/-! ## What a load installs (40_sequence_decoder.md R190 to R199) -/

section

namespace Sys2Proof.Machine

variable {P : Profile} {s t : State P}

/-- With a command at the cursor no meaning misses it (R220): its errors are those of the stack (R243 to R246). -/
theorem execute_ne_noCommand {i : Instr} {e : Entry} (he : s.fetch = some e) : execute i s ≠ .fault .noCommand := by
  cases commandShape P i with
  | register f g h =>
    rw [h, retire_of_fetch (s := { s with tempo := g s.tempo }) he]
    nofun
  | note key velocity dur h => rw [h, noteOn_of_fetch he]; nofun
  | endOfTie key h => rw [h, execEot, retire_of_fetch (s := s.mapChannels _) he]; nofun
  | trackOpen u target hi => rw [hi, execute, execTrackOpen, withLen_of_fetch he]; nofun
  | jump target hi => rw [hi]; nofun
  | call target hi =>
    rw [hi, execute, execCall, withLen_of_fetch he]
    split <;> nofun
  | loop count hi =>
    rw [hi, execute, execLoop, withLen_of_fetch he]
    split <;> nofun
  | loopend hi =>
    rw [hi, execute, execLoopend]
    split
    · nofun
    · rw [retire_of_fetch he]; nofun
    · nofun
    · nofun
  | ret hi =>
    rw [hi, execute, execRet]
    split <;> nofun
  | fine hi => rw [hi]; nofun

/-! ### Stamping (R195) -/

theorem lookupCmd_stampList (es : CmdList) (x n y : Nat) :
    lookupCmd (stampList es x n) y =
      if x = y then (lookupCmd es y).map fun e => { e with ticks := stampTicks e.ticks n } else lookupCmd es y := by
  induction es with
  | nil => simp [stampList, lookupCmd]
  | cons a es ih =>
    obtain ⟨p, d⟩ := a
    unfold stampList
    by_cases hpx : p = x
    · subst hpx
      by_cases hpy : p = y <;> simp [lookupCmd, hpy]
    · by_cases hpy : p = y
      · subst hpy
        simp [lookupCmd, hpx, Ne.symm hpx]
      · simp [lookupCmd, hpx, hpy, ih]

theorem mem_stampTicks {ticks : List Nat} {n k : Nat} (h : k ∈ stampTicks ticks n) : k ∈ ticks ∨ k = n := by
  unfold stampTicks at h
  split at h
  · exact .inl h
  · simpa using h

/-- Stamping writes the song table only. -/
theorem State.stamp_frame (s : State P) : s.stamp = { s with song := s.stamp.song } := by
  unfold State.stamp; split <;> rfl

theorem State.stamp_tracks (s : State P) : s.stamp.tracks = s.tracks := by rw [s.stamp_frame]
theorem State.stamp_elapsed (s : State P) : s.stamp.elapsed = s.elapsed := by rw [s.stamp_frame]
theorem State.stamp_cur (s : State P) : s.stamp.cur = s.cur := by rw [s.stamp_frame]

theorem State.stamp_startTable (s : State P) : s.stamp.startTable = s.startTable := by
  unfold State.stamp State.startTable
  cases hg : s.song with
  | none => simp only [hg]
  | some g => rfl

theorem State.stamp_installed (s : State P) : s.stamp.song.isSome = s.song.isSome := by
  unfold State.stamp
  cases hg : s.song with
  | none => simp only [hg]
  | some g => rfl

/-- Stamping adds `E` to the ticks of the command at the cursor and changes no other entry. -/
theorem State.stamp_entryAt (s : State P) (u : TrackId) (p : Nat) :
    s.stamp.entryAt u p =
      if s.cur = u ∧ s.track.cursor = p then (s.entryAt u p).map fun e => { e with ticks := stampTicks e.ticks s.elapsed }
      else s.entryAt u p := by
  unfold State.stamp State.entryAt
  cases hg : s.song with
  | none => simp [hg]
  | some g =>
    dsimp only
    rw [vec_set_fin]
    by_cases hu : s.cur = u
    · subst hu
      simp [lookupCmd_stampList]
    · simp [hu]

/-! ### The accounting pass -/

/-- What steers execution in a walked entry and in an installed one (R39). -/
def WalkEntry.core (e : WalkEntry) : Instr × Nat := (e.cmd, e.len)

/-- The command and the length of an installed entry (R39). -/
def Entry.core (e : Entry) : Instr × Nat := (e.cmd, e.len)

/-- The scratch state's table is the walked song's: its starts, and its commands by offset (R38, R190). -/
structure State.Holds (s : State P) (song : Song) (tables : WalkTables) : Prop where
  installed : s.song.isSome = true
  start : s.startTable = song.starts
  entries : ∀ t p, (s.entryAt t p).map Entry.core = (walkEntryAt tables t p).map WalkEntry.core

/-- The invariant of the accounting pass (R191 to R196): its table is the walked song's, no stamp lies after E, its tracks are on commands, a
known cycle ends after it began, and no track is longer than E. -/
structure Acct.Sound (song : Song) (tables : WalkTables) (a : Acct P) : Prop where
  table : a.m.Holds song tables
  ticks : ∀ t p e, a.m.entryAt t p = some e → ∀ k ∈ e.ticks, k ≤ a.m.elapsed
  cursors : a.m.cursorsLive
  cycles : ∀ (t : TrackId) l, a.cycle[t] = some l → l < a.length[t]
  lengths : ∀ t : TrackId, a.length[t] ≤ a.m.elapsed

/-- A part of a load that succeeds ends as `Q` says, and one that stops does not stop for want of a command. -/
def EndsIn {α : Type} (Q : α → Prop) : Except LoadStop α → Prop
  | .ok a => Q a
  | .error e => e ≠ .fault .noCommand

variable {song : Song} {tables : WalkTables}

theorem State.Holds.of_song (h : s.Holds song tables) (ht : t.song = s.song) : t.Holds song tables where
  installed := by rw [ht]; exact h.installed
  start := by unfold State.startTable; rw [ht]; exact h.start
  entries u p := by rw [entryAt_of_song ht]; exact h.entries u p

/-- A walked entry lies behind every entry of the scratch table. -/
theorem State.Holds.walked (h : s.Holds song tables) {u : TrackId} {p : Nat} {e : Entry} (he : s.entryAt u p = some e) :
    ∃ w, walkEntryAt tables u p = some w ∧ w.cmd = e.cmd ∧ w.len = e.len := by
  have hmap := h.entries u p
  rw [he] at hmap
  obtain ⟨w, hw, hcore⟩ := Option.map_eq_some_iff.1 hmap.symm
  exact ⟨w, hw, congrArg Prod.fst hcore, congrArg Prod.snd hcore⟩

theorem State.Holds.isSome_iff (h : s.Holds song tables) (u : TrackId) (p : Nat) :
    (s.entryAt u p).isSome = (walkEntryAt tables u p).isSome := by
  have hmap := congrArg Option.isSome (h.entries u p)
  simpa only [Option.isSome_map] using hmap

/-- A table that holds a closed walk is closed (R186). -/
theorem State.Holds.linked (h : s.Holds song tables) (hw : WalkClosed P song tables fun _ _ => False) : s.linked := by
  intro u p e he v q hl
  obtain ⟨w, hwalk, hcmd, hlen⟩ := h.walked he
  rw [h.isSome_iff]
  exact (hw.next u p w hwalk v q (by rw [hcmd, hlen]; exact hl)).elim id False.elim

theorem State.Holds.stamp (h : s.Holds song tables) : s.stamp.Holds song tables where
  installed := by rw [s.stamp_installed]; exact h.installed
  start := by rw [s.stamp_startTable]; exact h.start
  entries u p := by
    rw [s.stamp_entryAt, ← h.entries u p]
    split
    · rw [Option.map_map]; rfl
    · rfl

theorem State.stamp_isSome (s : State P) (u : TrackId) (p : Nat) : (s.stamp.entryAt u p).isSome = (s.entryAt u p).isSome := by
  rw [s.stamp_entryAt]
  split
  · rw [Option.isSome_map]
  · rfl

theorem State.stamp_cursorsLive (h : s.cursorsLive) : s.stamp.cursorsLive := by
  intro u
  simp only [s.stamp_isSome, s.stamp_tracks]
  exact h u

theorem State.stamp_ticks (h : ∀ u p e, s.entryAt u p = some e → ∀ k ∈ e.ticks, k ≤ s.elapsed) :
    ∀ u p e, s.stamp.entryAt u p = some e → ∀ k ∈ e.ticks, k ≤ s.elapsed := by
  intro u p e he k hk
  rw [s.stamp_entryAt] at he
  split at he
  · obtain ⟨d, hd, rfl⟩ := Option.map_eq_some_iff.1 he
    obtain hk | rfl := mem_stampTicks hk
    · exact h u p d hd k hk
    · exact Nat.le_refl _
  · exact h u p e he k hk

variable {a : Acct P}

theorem Acct.Sound.settle (h : a.Sound song tables) : a.settle.Sound song tables := by
  unfold Acct.settle
  split
  · refine ⟨h.table, h.ticks, h.cursors, fun u l hl => ?_, fun u => ?_⟩
    · have hlt := h.cycles u l hl
      dsimp only
      rw [vec_set_fin]
      split
      · next hu => subst hu; exact hlt.trans_le (h.lengths _)
      · exact hlt
    · dsimp only
      rw [vec_set_fin]
      split
      · exact Nat.le_refl _
      · exact h.lengths u
  · exact h

/-- R193: a cycle closes at a command stamped before now. -/
theorem Acct.Sound.closeCycle (h : a.Sound song tables) {first : Nat} (hf : first < a.m.elapsed) :
    (a.closeCycle first).Sound song tables := by
  refine ⟨h.table, h.ticks, h.cursors, fun u l hl => ?_, fun u => ?_⟩
  · simp only [Acct.closeCycle, vec_set_fin] at hl ⊢
    split at hl
    · next hu => cases hl; rw [if_pos hu]; exact hf
    · next hu => rw [if_neg hu]; exact h.cycles u l hl
  · simp only [Acct.closeCycle, vec_set_fin]
    split
    · exact Nat.le_refl _
    · exact h.lengths u

/-- The pass executes a stamped command by its own meaning (R190, R195). -/
theorem Acct.Sound.executes (h : a.Sound song tables) (hw : WalkClosed P song tables fun _ _ => False) {e : Entry} {m' : State P}
    (he : a.m.stamp.fetch = some e) (hx : execute e.cmd a.m.stamp = .next m') (done : Vector Bool Config.maxTracks) :
    ({ a with m := m', done := done } : Acct P).Sound song tables := by
  have htable := h.table.stamp
  have helapsed : m'.elapsed = a.m.elapsed := (execute_elapsed hx).trans a.m.stamp_elapsed
  refine ⟨htable.of_song (execute_song hx), fun u p e he k hk => ?_,
    execute_keeps_cursors (htable.linked hw) (State.stamp_cursorsLive h.cursors) he hx, h.cycles, fun u => ?_⟩
  · rw [entryAt_of_song (execute_song hx)] at he
    exact helapsed ▸ State.stamp_ticks h.ticks u p e he k hk
  · exact helapsed ▸ h.lengths u

theorem State.stamp_fetch (s : State P) : s.stamp.fetch = s.fetch.map fun e => { e with ticks := stampTicks e.ticks s.elapsed } := by
  have htrack : s.stamp.track.cursor = s.track.cursor := by rw [s.stamp_frame]; rfl
  rw [State.fetch, htrack, s.stamp_cur, s.stamp_entryAt, if_pos ⟨rfl, rfl⟩]
  rfl

theorem Acct.stopOf_ne_noCommand {f : Fault} (h : f ≠ .noCommand) : a.stopOf f ≠ .fault .noCommand := by
  cases f with
  | noCommand => exact absurd rfl h
  | _ => nofun

/-- R192: a track's command loop keeps the invariant, whatever is left before EXEC_LIMIT. -/
theorem acctExec_sound (hw : WalkClosed P song tables fun _ _ => False) {n : Nat} (h : a.Sound song tables) :
    EndsIn (Acct.Sound song tables) (acctExec n a) := by
  induction n generalizing a with
  | zero =>
    unfold acctExec
    split
    · exact h.settle
    · nofun
  | succ n ih =>
    unfold acctExec
    split
    · exact h.settle
    · next hgo =>
      have hlive : a.m.track.stopped = false := by
        cases hs : a.m.track.stopped with
        | false => rfl
        | true => exact absurd (by simp [hs]) hgo
      dsimp only
      split
      · next hnone =>
        obtain ⟨hcursor, -⟩ := h.cursors a.m.cur hlive
        rw [State.fetch, State.track] at hnone
        rw [hnone] at hcursor
        cases hcursor
      · next e he =>
        split
        · next hcycle =>
          split
          · nofun
          · next hne =>
            refine h.closeCycle (Nat.lt_of_le_of_ne (h.ticks _ _ e he _ ?_) hne)
            cases hticks : e.ticks with
            | nil => exact absurd hticks hcycle.1
            | cons k ks => exact List.mem_cons_self ..
        · have hstamped : a.m.stamp.fetch = some { e with ticks := stampTicks e.ticks a.m.elapsed } := by rw [a.m.stamp_fetch, he]; rfl
          cases hx : execute e.cmd a.m.stamp with
          | next m' => exact ih (h.executes hw hstamped hx _)
          | fault f => exact Acct.stopOf_ne_noCommand fun hf => execute_ne_noCommand hstamped (hf ▸ hx)
          | refused r => nofun

theorem overTracks_endsIn {Q : Acct P → Prop} {f : TrackId → Acct P → Except LoadStop (Acct P)}
    (hf : ∀ u a, Q a → EndsIn Q (f u a)) (us : List TrackId) (h : Q a) : EndsIn Q (overTracks f us a) := by
  induction us generalizing a with
  | nil => exact h
  | cons u us ih =>
    have hu := hf u a h
    unfold overTracks
    cases hx : f u a with rw [hx] at hu
    | ok b => exact ih hu
    | error e => exact hu

theorem Acct.Sound.turn (h : a.Sound song tables) (u : TrackId) : ({ a with m := { a.m with cur := u } } : Acct P).Sound song tables :=
  ⟨h.table.of_song rfl, h.ticks, h.cursors, h.cycles, h.lengths⟩

/-- R275: counting a rest down moves no cursor. -/
theorem Acct.Sound.countRest (h : a.Sound song tables) (u : TrackId) :
    ({ a with m := a.m.setTrack u a.m.tracks[u].countRest } : Acct P).Sound song tables := by
  refine ⟨h.table.of_song rfl, h.ticks, fun v => ?_, h.cycles, h.lengths⟩
  simp only [State.setTrack_entryAt, State.setTrack_at]
  split
  · next huv => subst huv; exact h.cursors u
  · exact h.cursors v

theorem Acct.Sound.tick (h : a.Sound song tables) :
    ({ a with m := { a.m with elapsed := a.m.elapsed + 1 } } : Acct P).Sound song tables :=
  ⟨h.table.of_song rfl, fun u p e he k hk => (h.ticks u p e he k hk).trans (Nat.le_succ _), h.cursors, h.cycles,
    fun u => (h.lengths u).trans (Nat.le_succ _)⟩

theorem acctTickZero_sound (hw : WalkClosed P song tables fun _ _ => False) (u : TrackId) (h : a.Sound song tables) :
    EndsIn (Acct.Sound song tables) (acctTickZero u a) := by
  unfold acctTickZero
  split
  · exact h
  · exact acctExec_sound hw (h.turn u)

theorem acctTrack_sound (hw : WalkClosed P song tables fun _ _ => False) (u : TrackId) (h : a.Sound song tables) :
    EndsIn (Acct.Sound song tables) (acctTrack u a) := by
  unfold acctTrack
  split
  · dsimp only
    split
    · exact acctExec_sound hw ((h.countRest u).turn u)
    · exact (h.countRest u).turn u
  · exact h

theorem acctLoop_sound (hw : WalkClosed P song tables fun _ _ => False) {n : Nat} (h : a.Sound song tables) :
    EndsIn (Acct.Sound song tables) (acctLoop n a) := by
  induction n generalizing a with
  | zero =>
    unfold acctLoop
    split
    · exact h
    · nofun
  | succ n ih =>
    unfold acctLoop
    split
    · exact h
    · have hpass := overTracks_endsIn (fun u _ hb => acctTrack_sound hw u hb) (List.finRange Config.maxTracks) h.tick
      dsimp only
      cases hx : overTracks acctTrack (List.finRange Config.maxTracks) { a with m := { a.m with elapsed := a.m.elapsed + 1 } } with
        rw [hx] at hpass
      | ok b => exact ih hpass
      | error e => exact hpass

/-! ### The pass at its start and its result (R191, R196) -/

theorem lookupCmd_entryOf (es : List (Nat × WalkEntry)) (p : Nat) :
    lookupCmd (es.map entryOf) p = (lookupWalk es p).map fun e => ⟨e.cmd, e.len, []⟩ := by
  induction es with
  | nil => rfl
  | cons a es ih =>
    obtain ⟨q, d⟩ := a
    by_cases hq : q = p <;> simp [entryOf, lookupCmd, lookupWalk, hq, ih]

theorem acctStart_entryAt (s : State P) (song : Song) (tables : WalkTables) (u : TrackId) (p : Nat) :
    (acctStart s song tables).m.entryAt u p = (walkEntryAt tables u p).map fun e => ⟨e.cmd, e.len, []⟩ := by
  show lookupCmd (vecMap (fun es => es.map entryOf) tables)[u] p = _
  rw [vecMap_fin, lookupCmd_entryOf]
  rfl

theorem acctStart_sound (hw : WalkClosed P song tables fun _ _ => False) (s : State P) : (acctStart s song tables).Sound song tables := by
  have hentry := acctStart_entryAt s song tables
  refine ⟨⟨rfl, rfl, fun u p => ?_⟩, fun u p e he k hk => ?_, fun u => ?_, fun u l hl => ?_, fun u => ?_⟩
  · rw [hentry, Option.map_map]; rfl
  · rw [hentry] at he
    obtain ⟨w, -, rfl⟩ := Option.map_eq_some_iff.1 he
    cases hk
  · have hreset : (acctStart s song tables).m.tracks[u] = Track.reset song.starts[u] := vecMap_fin ..
    rw [hreset]
    intro hstopped
    cases hx : song.starts[u] with
    | none => rw [hx] at hstopped; cases hstopped
    | some x =>
      refine ⟨?_, nofun⟩
      simp only [hentry, Option.isSome_map]
      exact (hw.start u x hx).elim id False.elim
  · simp [acctStart] at hl
  · simp [acctStart]

/-- A table as a load of the song installs it: the song's starts and decoded commands, closed (R186), and a rewind tick before the end
(R193). -/
structure SongTable.LoadedFrom (P : Profile) (song : Song) (g : SongTable) : Prop where
  start : g.start = song.starts
  startsHeld : ∀ (t : TrackId) x, song.starts[t] = some x → (lookupCmd g.cmds[t] x.toNat).isSome = true
  decoded : ∀ (t : TrackId) p e, lookupCmd g.cmds[t] p = some e → p < song.rom.len ∧ ∃ rs d,
    decodeAt P.toDecodeProfile rs (song.rom.bytesFrom p maxFormatBytes) = .ok d ∧ d.cmd = e.cmd ∧ d.len = e.len
  linked : ∀ (t : TrackId) p e, lookupCmd g.cmds[t] p = some e → ∀ u q, LeadsTo t p e.len e.cmd u q →
    (lookupCmd g.cmds[u] q).isSome = true
  cycles : ∀ l, g.loopStartTick = some l → l < g.maxTicks

/-- The result writes the three totals of R196 only. -/
theorem acctResult_frame (a : Acct P) (g : SongTable) :
    (acctResult a g).start = g.start ∧ (acctResult a g).cmds = g.cmds ∧
      ((acctResult a g).loopStartTick = none ∨
        ∃ u : TrackId, (acctResult a g).loopStartTick = a.cycle[u] ∧ (acctResult a g).maxTicks = a.length[u]) := by
  unfold acctResult
  split
  · exact ⟨rfl, rfl, .inl rfl⟩
  · next u _ => exact ⟨rfl, rfl, .inr ⟨u, rfl, rfl⟩⟩

theorem Acct.Sound.result (h : a.Sound song tables) (hw : WalkClosed P song tables fun _ _ => False) {g : SongTable}
    (hg : a.m.song = some g) : (acctResult a g).LoadedFrom P song := by
  obtain ⟨hstart, hcmds, hcycle⟩ := acctResult_frame a g
  have hentry : ∀ u p, a.m.entryAt u p = lookupCmd g.cmds[u] p := fun u p => by unfold State.entryAt; rw [hg]
  have htable : a.m.startTable = g.start := by unfold State.startTable; rw [hg]
  refine ⟨by rw [hstart, ← htable, h.table.start], fun u x hx => ?_, fun u p e he => ?_, fun u p e he v q hl => ?_, fun l hl => ?_⟩
  · rw [hcmds, ← hentry, h.table.isSome_iff]
    exact (hw.start u x hx).elim id False.elim
  · rw [hcmds, ← hentry] at he
    obtain ⟨w, hwalk, hcmd, hlen⟩ := h.table.walked he
    rw [← hcmd, ← hlen]
    exact hw.decoded u p w hwalk
  · rw [hcmds, ← hentry] at he ⊢
    exact h.table.linked hw u p e he v q hl
  · obtain hnone | ⟨u, hc, hmax⟩ := hcycle
    · rw [hnone] at hl; cases hl
    · rw [hmax]; exact h.cycles u l (hc ▸ hl)

theorem account_endsIn (hw : WalkClosed P song tables fun _ _ => False) (s : State P) :
    EndsIn (SongTable.LoadedFrom P song) (account s song tables) := by
  have hzero := overTracks_endsIn (fun u _ hb => acctTickZero_sound hw u hb) (List.finRange Config.maxTracks) (acctStart_sound hw s)
  unfold account
  cases hx : overTracks acctTickZero (List.finRange Config.maxTracks) (acctStart s song tables) with rw [hx] at hzero
  | error e => exact hzero
  | ok b =>
    have hloop : EndsIn (Acct.Sound song tables) (acctLoop P.accountLimit b) := acctLoop_sound hw hzero
    dsimp only
    cases hy : acctLoop P.accountLimit b with rw [hy] at hloop
    | error e => exact hloop
    | ok c =>
      dsimp only
      split
      · next hnone =>
        have := hloop.table.installed
        rw [hnone] at this
        cases this
      · next g hg => exact hloop.result hw hg

/-- A load installs a closed table of decoded commands, or stops, but never for want of a command (R180, R186). -/
theorem load_endsIn (s : State P) (song : Song) : EndsIn (SongTable.LoadedFrom P (song.trim P)) (load s song) := by
  obtain ⟨hok, hne⟩ := walk_closed P (song.trim P)
  unfold load
  cases hx : walk P (song.trim P) with
  | error e => exact fun h => hne (h ▸ hx)
  | ok tables => exact account_endsIn (hok tables hx) s

end Sys2Proof.Machine

end

/-! ## The song table and the tracks along a step (10_state.md R33, R38, R42, R131) -/

section

namespace Sys2Proof.Machine

variable {P : Profile} {s t : State P}

/-- Only a load, or what discards the song, writes the song table (R38, R501, R508). -/
theorem Move.song_cases (m : Move s t) :
    (t.song = s.song ∧ t.seqRom = s.seqRom) ∨ t.song = none ∨
      ∃ (song : Song) (g : SongTable), song.rom.len ≤ P.seqSizeMax ∧ g.LoadedFrom P (song.trim P) ∧ t.song = some g ∧ t.seqRom = song.rom := by
  cases m with
  | shutsDown => exact .inr (.inl rfl)
  | loadFails => exact .inr (.inl rfl)
  | loads cs song g hp hc hlen hg =>
    have hload := load_endsIn (({ s with taken := cs } : State P).unload song) song
    rw [hg] at hload
    exact .inr (.inr ⟨song, g, hlen, hload, rfl, rfl⟩)
  | finishesPlayed =>
    obtain h | h := endCheck_cases s.afterQuantum <;> simp only [h] <;> exact .inl ⟨rfl, rfl⟩
  | runs e hp hrun he hx => exact .inl ⟨execute_song hx, execute_seqRom hx⟩
  | tickEnds =>
    simp only [loopCheck_song, loopCheck_seqRom]
    exact .inl ⟨rfl, rfl⟩
  | frameBegins | commandIgnored | playStarts | playResumes | stops | pauses | seekStarts | fadesIn | accumulates | finishesSilent |
    passNext | passEndsInPlay | passEndsInSeek | frameTickBegins | seekTickBegins | seekEnds | trackTicks | tickNext =>
    exact .inl ⟨rfl, rfl⟩

theorem entryAt_of_none (h : s.song = none) (u : TrackId) (p : Nat) : s.entryAt u p = none := by
  unfold State.entryAt; rw [h]

theorem entryAt_of_some {g : SongTable} (h : s.song = some g) (u : TrackId) (p : Nat) : s.entryAt u p = lookupCmd g.cmds[u] p := by
  unfold State.entryAt; rw [h]

/-! ### O32 -/

/-- Without running status the byte kept for it does not matter (R134). -/
theorem decodeWith_of_decodeAt {D : DecodeProfile} (hD : D.lowByteMode = .note) {rs : Option Byte} {bs : List Byte} {d : Decoded}
    (h : decodeAt D rs bs = .ok d) : decodeWith D bs = .ok (d.cmd, d.len) := by
  unfold decodeWith
  cases bs with
  | nil => cases h
  | cons b r =>
    simp only [decodeAt, hD] at h ⊢
    split at h
    · next hlow =>
      rw [if_pos hlow]
      split at h
      · cases h
      · cases h; rfl
    · next hhigh =>
      rw [if_neg hhigh]
      split at h
      · cases h
      · cases h; rfl

/-- Settles O32: a load's entries are what the decoder read from the song's bytes, and no other step writes the table or the bytes. -/
theorem stepKeepsTableMatchingRom : Obligations.step_keeps_table_matching_rom := by
  intro s t h hs u p e he
  obtain ⟨hsong, hrom⟩ | hnone | ⟨song, g, -, hg, hsong, hrom⟩ := (advance_move hs).song_cases
  · rw [hrom]
    exact h u p e (entryAt_of_song hsong u p ▸ he)
  · rw [entryAt_of_none hnone] at he; cases he
  · rw [entryAt_of_some hsong] at he
    obtain ⟨-, rs, d, hd, hcmd, hlen⟩ := hg.decoded u p e he
    rw [hrom, ← hcmd, ← hlen]
    exact decodeWith_of_decodeAt rfl hd

/-! ### O35 -/

theorem Move.keeps_loopStartsBeforeEnd {s t : State} (m : Move s t) (h : s.loopStartsBeforeEnd) : t.loopStartsBeforeEnd := by
  intro l hl
  unfold State.loopStartTick at hl
  unfold State.maxTicks
  obtain ⟨hsong, -⟩ | hnone | ⟨song, g, -, hg, hsong, -⟩ := m.song_cases
  · rw [hsong] at hl ⊢; exact h l hl
  · rw [hnone] at hl; cases hl
  · rw [hsong] at hl ⊢; exact hg.cycles l hl

/-- The loop check leaves E below the end of a cycling song, unless a seek is under way (R283, R285). -/
theorem loopCheck_elapsed {s : State P} (hend : ∀ l, s.loopStartTick = some l → l < s.maxTicks) (hloop : s.loopStartTick.isSome = true)
    (he : s.elapsed ≤ s.maxTicks) :
    (loopCheck s).elapsed ≤ s.maxTicks ∧ (s.seeking = false → (loopCheck s).elapsed < s.maxTicks) := by
  obtain ⟨l, hl⟩ := Option.isSome_iff_exists.1 hloop
  have hlt := hend l hl
  unfold loopCheck
  split
  · next hseek => exact ⟨he, fun hno => by rw [hno] at hseek; cases hseek⟩
  · rw [hl]
    dsimp only
    split
    · obtain ⟨f, hf⟩ := fadeTrigger_writes_fade P.loopThreshold { s with elapsed := l, loopCount := s.loopCount + 1 }
      rw [hf]
      exact ⟨hlt.le, fun _ => hlt⟩
    · exact ⟨he, fun _ => by omega⟩

theorem Move.keeps_elapsedWithinSong {s t : State} (m : Move s t) (h : s.elapsedWithinSong) (hend : s.loopStartsBeforeEnd)
    (hseek : s.seekingMatchesPhase) : t.elapsedWithinSong := by
  have hend' := m.keeps_loopStartsBeforeEnd hend
  have restarted (he : t.elapsed = 0) : t.elapsedWithinSong := fun hloop => by
    obtain ⟨l, hl⟩ := Option.isSome_iff_exists.1 hloop
    have := hend' l hl
    exact ⟨by omega, fun _ _ => by omega⟩
  have inSeek {p : Phase} (hp : s.phase = p) (hq : p.ofSeek = true) : s.seeking = true := by
    have hseek' : s.seeking = p.ofSeek := hp ▸ hseek
    exact hseek'.trans hq
  have quiet {p : Phase} (hp : s.phase = p) (hi : p.insideTick = false) (hq : p.ofSeek = false) (hloop : s.loopStartTick.isSome = true) :
      s.elapsed < s.maxTicks := by
    have hseek' : s.seeking = p.ofSeek := hp ▸ hseek
    exact (h hloop).2 (hp ▸ hi) (hseek'.trans hq)
  have atRest {p : Phase} {q : Prop} (hp : s.phase = p) (hi : p.insideTick = false) (hq : p.ofSeek = false)
      (hloop : s.loopStartTick.isSome = true) : s.elapsed ≤ s.maxTicks ∧ (q → s.seeking = false → s.elapsed < s.maxTicks) :=
    ⟨(quiet hp hi hq hloop).le, fun _ _ => quiet hp hi hq hloop⟩
  have inTick {q : Prop} (hi : true = false) : q := nomatch hi
  cases m with
  | frameBegins hp => exact atRest hp rfl rfl
  | commandIgnored c cs hp => exact atRest hp rfl rfl
  | playResumes cs hp => exact atRest hp rfl rfl
  | pauses cs hp => exact atRest hp rfl rfl
  | fadesIn cs hp => exact atRest hp rfl rfl
  | accumulates hp => exact atRest hp rfl rfl
  | finishesSilent hp => obtain ⟨hp, -⟩ | ⟨hp, -⟩ := hp <;> exact atRest hp rfl rfl
  | finishesPlayed hp =>
    obtain hx | hx := endCheck_cases s.afterQuantum
    · unfold State.elapsedWithinSong State.loopStartTick State.maxTicks
      simp only [hx, State.afterQuantum_song, State.afterQuantum_elapsed, State.afterQuantum_seeking]
      exact atRest hp rfl rfl
    · exact restarted (by simp only [hx, State.stopAll_elapsed])
  | playStarts => exact restarted rfl
  | stops => exact restarted rfl
  | seekStarts => exact restarted rfl
  | shutsDown => exact restarted rfl
  | loads => exact restarted rfl
  | loadFails => exact restarted rfl
  | runs e hp hrun he hx =>
    unfold State.elapsedWithinSong State.loopStartTick State.maxTicks
    rw [execute_song hx, execute_elapsed hx, execute_phase hx, execute_seeking hx]
    exact h
  | passNext => exact h
  | passEndsInPlay hp => exact atRest hp rfl rfl
  | passEndsInSeek m target hp =>
    have hs : s.seeking = true := inSeek hp rfl
    exact fun hloop => ⟨(h hloop).1, fun _ hno => absurd (hs.symm.trans hno) nofun⟩
  | frameTickBegins hp =>
    unfold State.elapsedWithinSong State.loopStartTick State.maxTicks
    simp only [beginTick_song, beginTick_elapsed, beginTick_phase]
    exact fun hloop => ⟨quiet hp rfl rfl hloop, inTick⟩
  | seekTickBegins m target hp he =>
    refine fun hloop => ⟨?_, inTick⟩
    show s.elapsed + 1 ≤ s.maxTicks
    omega
  | seekEnds m target hp =>
    intro hloop
    obtain ⟨l, hl⟩ := Option.isSome_iff_exists.1 hloop
    have hlt : l < s.maxTicks := hend l hl
    have hle := (h hloop).1
    have hx : (endSeek m s).elapsed = if s.elapsed = s.maxTicks then l else s.elapsed := by
      unfold endSeek; rw [show s.loopStartTick = some l from hl]
    have hbelow : (endSeek m s).elapsed < s.maxTicks := by rw [hx]; split <;> omega
    exact ⟨hbelow.le, fun _ _ => hbelow⟩
  | trackTicks job hp => exact fun hloop => ⟨(h hloop).1, inTick⟩
  | tickNext job u hp => exact fun hloop => ⟨(h hloop).1, inTick⟩
  | tickEnds job hp =>
    intro hloop
    have hsong : (loopCheck (s.mapChannels s.regainChannel)).song = s.song := loopCheck_song _
    have hs : (loopCheck (s.mapChannels s.regainChannel)).seeking = s.seeking := loopCheck_seeking _
    unfold State.loopStartTick at hloop
    unfold State.maxTicks
    simp only [hsong, hs] at hloop ⊢
    have hle := (h hloop).1
    have hx := loopCheck_elapsed (s := s.mapChannels s.regainChannel) hend hloop hle
    exact ⟨hx.1, fun _ => hx.2⟩

/-- Settles O35: a tick begins below `MaxTicks`, its loop check rewinds at `MaxTicks`, and a load's rewind tick lies before its end. -/
theorem stepKeepsElapsedWithinSong : Obligations.step_keeps_elapsed_within_song := by
  intro s t h hend hseek hs
  have m : Move s t := advance_move hs
  exact ⟨m.keeps_elapsedWithinSong h hend hseek, m.keeps_loopStartsBeforeEnd hend, m.keeps_seekingMatchesPhase hseek⟩

end Sys2Proof.Machine

end

/-! ## Decoded commands are well formed (30_encoding.md R131, R137) -/

section

namespace Sys2Proof

variable {α : Type} {a : α} {bs : List Byte} {k : List Int → List Byte → DecodeResult α}

theorem readFields_ok {fs : List Field} (h : readFields fs bs k = .ok a) : ∃ vs r, k vs r = .ok a := by
  induction fs generalizing bs k with
  | nil => exact ⟨[], bs, h⟩
  | cons f fs ih =>
    obtain ⟨v, r, hv, -, -⟩ := readField_ok h
    obtain ⟨vs, r', hk⟩ := ih hv
    exact ⟨v :: vs, r', hk⟩

/-- A format that reads holds its first value to its range (R137). -/
theorem readFormat_ok {ok : Int → Bool} {fs : List Field} (h : readFormat ok fs bs k = .ok a) :
    ∃ vs r, k vs r = .ok a ∧ ∀ v rest, vs = v :: rest → ok v = true := by
  cases fs with
  | nil => exact ⟨[], bs, h, nofun⟩
  | cons f fs =>
    rw [readFormat_cons] at h
    obtain ⟨v, r, hv, -, -⟩ := readField_ok h
    split at hv
    · next hok =>
      obtain ⟨vs, r', hk⟩ := readFields_ok hv
      exact ⟨v :: vs, r', hk, fun w rest hw => by cases hw; exact hok⟩
    · cases hv

theorem accept_ok {strict : Bool} {i j : Instr} {r r' : List Byte} (h : accept strict i r = .ok (j, r')) : j = i := by
  unfold accept at h
  split at h <;> cases h
  rfl

theorem decodeControl_wellFormed {D : DecodeProfile} {op : Byte} {i : Instr} {r : List Byte} (h : decodeControl D op bs = .ok (i, r)) :
    i.WellFormed := by
  unfold decodeControl at h
  split at h
  · cases h
  · split at h
    · obtain ⟨vs, r', hk, hok⟩ := readFormat_ok h
      split at hk
      · cases hk
      · next j hj =>
        rw [accept_ok hk]
        exact build_wellFormed hj hok
    · cases h

theorem decodeNote_wellFormed {op : Byte} (hop : op.toNat < 128) {i : Instr} {r : List Byte} (h : decodeNote op bs = .ok (i, r)) :
    i.WellFormed := by
  cases bs with
  | nil => cases h
  | cons v bs =>
    simp only [decodeNote, readByte_cons, readVlq] at h
    split at h
    · cases h
    · next n r' hn =>
      obtain ⟨-, -, hlt⟩ := vlqLoop_ok hn
      cases h
      exact Bool.and_eq_true_iff.2 ⟨decide_eq_true hop, decide_eq_true (by simpa using hlt)⟩

/-- Whatever the profile and the running status, what decodes is well formed. -/
theorem decodeAt_wellFormed {D : DecodeProfile} {rs : Option Byte} {d : Decoded} (h : decodeAt D rs bs = .ok d) : d.cmd.WellFormed := by
  cases bs with
  | nil => cases h
  | cons b r =>
    unfold decodeAt at h
    dsimp only at h
    split at h
    · next hlow =>
      split at h
      · split at h
        · cases h
        · next hn => cases h; exact decodeNote_wellFormed hlow hn
      · split at h
        · cases h
        · split at h
          · cases h
          · split at h
            · cases h
            · next hc => cases h; exact decodeControl_wellFormed hc
    · split at h
      · cases h
      · next hc => cases h; exact decodeControl_wellFormed hc

end Sys2Proof

/-! ## Cursors and ranges along a step (10_state.md R41 to R44) -/

namespace Sys2Proof.Machine

variable {P : Profile}

/-! ### The closed table (R186) -/

/-- The table is closed when it holds its starts, its offsets are u24 and its commands lead only to commands of it. -/
theorem State.tableClosed_iff (s : State) :
    s.tableClosed ↔ (∀ (t : TrackId) (x : Off24), s.startTable[t] = some x → s.hasCommand t x.toNat) ∧
      (∀ t p e, s.entryAt t p = some e → p < 16777216) ∧ s.linked := by
  unfold State.tableClosed
  refine and_congr_right fun _ => ⟨fun h => ⟨fun t p e he => (h t p e he).1, fun t p e he u q hl => ?_⟩, fun h t p e he => ?_⟩
  · obtain ⟨-, hfalls, hjumps, hopens⟩ := h t p e he
    cases hl with
    | falls hf =>
      obtain ⟨hfine, hret, hjump⟩ := hf
      exact hfalls hfine hret hjump
    | jumps x hx => exact hjumps x (.inl hx)
    | calls x hx => exact hjumps x (.inr hx)
    | opens u x hx => exact hopens u x hx
  · have hl := h.2 t p e he
    refine ⟨h.1 t p e he, fun hfine hret hjump => hl t _ (.falls ⟨hfine, hret, hjump⟩), fun x hx => ?_, fun i x hx => hl i _ (.opens i x hx)⟩
    obtain hx | hx := hx
    · exact hl t _ (.jumps x hx)
    · exact hl t _ (.calls x hx)

theorem Move.keeps_tableClosed {s t : State} (m : Move s t) (h : s.tableClosed) : t.tableClosed := by
  obtain ⟨hsong, -⟩ | hnone | ⟨song, g, hlen, hg, hsong, -⟩ := m.song_cases
  · unfold State.tableClosed State.hasCommand State.startTable
    simp only [entryAt_of_song hsong, hsong]
    exact h
  · refine ⟨fun u x hx => ?_, fun u p e he => ?_⟩
    · simp [State.startTable, hnone] at hx
    · rw [entryAt_of_none hnone] at he; cases he
  · have hstart : t.startTable = g.start := by unfold State.startTable; rw [hsong]
    rw [State.tableClosed_iff]
    unfold State.hasCommand State.linked
    simp only [entryAt_of_some hsong, hstart, hg.start]
    refine ⟨hg.startsHeld, fun u p e he => ?_, hg.linked⟩
    obtain ⟨hp, -⟩ := hg.decoded u p e he
    exact hp.trans_le hlen

theorem Move.keeps_tableWellFormed {s t : State} (m : Move s t) (h : s.tableWellFormed) : t.tableWellFormed := by
  intro u p e he
  obtain ⟨hsong, -⟩ | hnone | ⟨song, g, -, hg, hsong, -⟩ := m.song_cases
  · exact h u p e (entryAt_of_song hsong u p ▸ he)
  · rw [entryAt_of_none hnone] at he; cases he
  · rw [entryAt_of_some hsong] at he
    obtain ⟨-, rs, d, hd, hcmd, -⟩ := hg.decoded u p e he
    rw [← hcmd]
    exact decodeAt_wellFormed hd

/-! ### O31 -/

theorem Track.lfoStep_frame (x : Track) : x.lfoStep = { x with lfoPhase := x.lfoStep.lfoPhase, lfoDelayCount := x.lfoStep.lfoDelayCount } := by
  unfold Track.lfoStep; split <;> rfl

/-- The first half of a track's tick writes its rest counter and its LFO (R275, R330). -/
theorem trackPre_track (job : TickJob) (s : State P) (u : TrackId) :
    (trackPre job s).tracks[u] = if s.cur = u then s.track.countRest.lfoStep else s.tracks[u] := vec_set_fin ..

theorem tracksInRange_of_eq {s t : State} (htracks : t.tracks = s.tracks) (h : s.tracksInRange) : t.tracksInRange := by
  intro u
  simp only [htracks]
  exact h u

theorem Move.keeps_tracksInRange {s t : State} (m : Move s t) (h : s.tracksInRange) (hw : s.tableWellFormed) (hc : s.tableClosed) :
    t.tracksInRange := by
  have rewound (cs : List HostCmd) (u : TrackId) : ({ s with taken := cs } : State).rewind.tracks[u].inRange := by
    rw [State.rewind_track]; exact Track.reset_inRange _
  obtain ⟨-, hu24, hlinked⟩ := s.tableClosed_iff.1 hc
  cases m with
  | playStarts cs => exact rewound cs
  | stops cs => exact rewound cs
  | seekStarts cs => exact rewound cs
  | loads cs => exact rewound cs
  | loadFails cs => exact rewound cs
  | shutsDown =>
    intro u
    have hreset : (Vector.replicate Config.maxTracks (Track.reset none))[u] = Track.reset none := by simp
    dsimp only
    rw [hreset]
    exact Track.reset_inRange none
  | finishesPlayed =>
    obtain hx | hx := endCheck_cases s.afterQuantum
    · exact tracksInRange_of_eq (s := s) (by simp only [hx, State.afterQuantum_tracks]) h
    · refine tracksInRange_of_eq (s := s.afterQuantum.stopAll) (by simp only [hx]) fun u => ?_
      rw [State.stopAll_track]; exact Track.reset_inRange _
  | runs e hp hrun he hx =>
    refine execute_keeps_ranges he (hw _ _ e he) (fun hf => ?_) h hx
    obtain ⟨e', he'⟩ := Option.isSome_iff_exists.1 (hlinked _ _ e he _ _ (.falls hf))
    exact hu24 _ _ e' he'
  | trackTicks job =>
    intro u
    rw [trackPre_track]
    split
    · obtain ⟨hopen, hcursor, hrest, hother⟩ := h s.cur
      rw [Track.lfoStep_frame]
      exact ⟨hopen, hcursor, (Nat.sub_le _ 1).trans_lt hrest, hother⟩
    · exact h u
  | tickEnds => simp only [loopCheck_tracks]; exact h
  | frameBegins | commandIgnored | playResumes | pauses | fadesIn | accumulates | finishesSilent | passNext | passEndsInPlay |
    passEndsInSeek | seekTickBegins | seekEnds | tickNext => exact h
  | frameTickBegins => exact tracksInRange_of_eq (s := s) (beginTick_tracks ..) h

/-- Settles O31: commands write clamped or well-formed operands, and the closed table keeps the cursors u24. -/
theorem stepKeepsTrackRanges : Obligations.step_keeps_track_ranges := by
  intro s t h hw hc hs
  have m : Move s t := advance_move hs
  exact ⟨m.keeps_tracksInRange h hw hc.1, m.keeps_tableWellFormed hw⟩

/-! ### O30 -/

theorem State.inSong_iff (s : State) : s.inSong = true ↔ s.mode = .playing ∨ s.mode = .paused ∨ s.phase.busy = true := by
  unfold State.inSong Phase.busy
  cases s.phase <;> simp

/-- After a rewind every runnable track stands on its start (R271). -/
theorem State.rewind_cursorsLive {s : State} (h : s.tableClosed) : s.rewind.cursorsLive := by
  intro u
  rw [State.rewind_track]
  intro hstopped
  cases hx : s.startTable[u] with
  | none => rw [hx] at hstopped; cases hstopped
  | some x => exact ⟨h.1 u x hx, nofun⟩

theorem cursorsLive_of_eq {s t : State P} (htracks : t.tracks = s.tracks) (hsong : t.song = s.song) (h : s.cursorsLive) :
    t.cursorsLive := by
  intro u
  simp only [entryAt_of_song hsong, htracks]
  exact h u

theorem trackPre_cursorsLive {s : State P} (job : TickJob) (h : s.cursorsLive) : (trackPre job s).cursorsLive := by
  intro u
  rw [trackPre_track]
  split
  · next hu =>
    subst hu
    rw [Track.lfoStep_frame]
    exact h s.cur
  · exact h u

theorem Move.keeps_cursorsLive {s t : State} (m : Move s t) (hc : s.tableClosed) (h : s.inSong = true → s.cursorsLive)
    (ht : t.inSong = true) : t.cursorsLive := by
  have live (hs : s.mode = .playing ∨ s.mode = .paused ∨ s.phase.busy = true) : s.cursorsLive := h (s.inSong_iff.2 hs)
  have busy {p : Phase} (hp : s.phase = p) (hb : p.busy = true) : s.cursorsLive := live (.inr (.inr (hp ▸ hb)))
  have rewound (cs : List HostCmd) : ({ s with taken := cs } : State).rewind.cursorsLive := State.rewind_cursorsLive hc
  have idle (hp : s.phase = .host) : s.phase.busy ≠ true := by rw [hp]; nofun
  have ht' := (State.inSong_iff _).1 ht
  cases m with
  | frameBegins hp =>
    obtain hm | hm | hb := ht'
    · exact live (.inl hm)
    · exact live (.inr (.inl hm))
    · cases hb
  | commandIgnored => exact live ht'
  | fadesIn => exact live ht'
  | playStarts cs => exact rewound cs
  | seekStarts cs => exact rewound cs
  | playResumes cs hp hc hm => exact live (.inr (.inl hm))
  | pauses cs hp hc hm => exact live (.inl hm)
  | stops cs hp =>
    rw [State.stopAll_mode] at ht'
    obtain hm | hm | hb := ht'
    · split at hm <;> cases hm
    · split at hm <;> cases hm
    · exact absurd hb (idle hp)
  | shutsDown cs hp =>
    obtain hm | hm | hb := ht'
    · cases hm
    · cases hm
    · exact absurd hb (idle hp)
  | loads cs song g hp =>
    obtain hm | hm | hb := ht'
    · cases hm
    · cases hm
    · exact absurd hb (idle hp)
  | loadFails cs song e hp =>
    obtain hm | hm | hb := ht'
    · cases hm
    · cases hm
    · exact absurd hb (idle hp)
  | accumulates hp hc hm => exact live (.inl hm)
  | finishesSilent hp hm =>
    obtain hm | hm | hb := ht'
    · exact live (.inl hm)
    · exact live (.inr (.inl hm))
    · cases hb
  | finishesPlayed hp hstack hm =>
    obtain hx | hx := endCheck_cases s.afterQuantum
    · exact cursorsLive_of_eq (by simp only [hx, State.afterQuantum_tracks]) (by simp only [hx, State.afterQuantum_song])
        (live (.inl hm))
    · simp only [hx, State.stopAll_mode] at ht'
      obtain hm | hm | hb := ht'
      · split at hm <;> cases hm
      · split at hm <;> cases hm
      · cases hb
  | runs e hp hrun he hx =>
    have hs : s.cursorsLive := by obtain ⟨job, hp⟩ | ⟨job, hp⟩ := hp <;> exact busy hp rfl
    obtain ⟨-, -, hlinked⟩ := s.tableClosed_iff.1 hc
    exact execute_keeps_cursors hlinked hs he hx
  | passNext job u hp => exact busy hp rfl
  | passEndsInPlay hp => exact busy hp rfl
  | passEndsInSeek m target hp => exact busy hp rfl
  | frameTickBegins hp => exact cursorsLive_of_eq (s := s) (beginTick_tracks ..) (beginTick_song ..) (busy hp rfl)
  | seekTickBegins m target hp => exact busy hp rfl
  | seekEnds m target hp => exact busy hp rfl
  | trackTicks job hp => exact trackPre_cursorsLive job (busy hp rfl)
  | tickNext job u hp => exact busy hp rfl
  | tickEnds job hp => exact cursorsLive_of_eq (loopCheck_tracks _) (loopCheck_song _) (busy hp rfl)

/-! A step misses a command only where it fetches one. -/

theorem withGains_ne_noCommand {s : State P} {k : State P → Result P} (hk : ∀ u, k u ≠ .fault .noCommand) :
    withGains s k ≠ .fault .noCommand := by
  unfold withGains
  split
  · exact hk _
  · nofun

theorem finishFrame_ne_noCommand (s : State P) : finishFrame s ≠ .fault .noCommand := by
  unfold finishFrame withQuantum
  split
  · split <;> nofun
  · nofun

/-- A host command fails by its load only (R491), and a load never for want of a command (R186). -/
theorem perform_ne_noCommand (c : HostCmd) (s : State P) : perform c s ≠ .fault .noCommand := by
  rcases perform_cases c s with ⟨song, rfl⟩ | h | ⟨-, -, h⟩ | ⟨-, -, h⟩ | ⟨-, -, h⟩ | ⟨-, -, h⟩ | ⟨n, -, -, h⟩ | ⟨-, -, h⟩ | ⟨-, h⟩
  · have hload := load_endsIn (s.unload song) song
    show performLoad song s ≠ _
    unfold performLoad
    split
    · nofun
    · split
      · nofun
      · nofun
      · next f hf =>
        rw [hf] at hload
        exact fun h => hload (by cases h; rfl)
      · nofun
  all_goals rw [h]; nofun

theorem Track.runnable_iff (x : Track) : x.runnable = true ↔ x.opened = true ∧ x.stopped = false ∧ x.rest = 0 := by
  simp [Track.runnable, and_assoc]

/-- With every cursor on a command the executing track finds its command (R42, R220). -/
theorem runCommand_ne_noCommand {s : State P} (h : s.cursorsLive) (hrun : s.track.runnable = true) : runCommand s ≠ .fault .noCommand := by
  obtain ⟨-, hlive, -⟩ := (Track.runnable_iff _).1 hrun
  obtain ⟨e, he⟩ := Option.isSome_iff_exists.1 (h s.cur hlive).1
  rw [runCommand_of_fetch (e := e) he]
  exact execute_ne_noCommand (e := e) he

theorem advance_ne_noCommand {s : State} (h : s.cursorsNameCommands) : advance s ≠ .fault .noCommand := by
  obtain ⟨-, hlive⟩ := h
  have busy {p : Phase} (hp : s.phase = p) (hb : p.busy = true) : s.cursorsLive := hlive (s.inSong_iff.2 (.inr (.inr (hp ▸ hb))))
  cases hp : s.phase <;> simp only [advance, hp]
  case boundary => nofun
  case host =>
    unfold stepHost
    split
    · exact perform_ne_noCommand _ _
    · split
      · nofun
      · exact finishFrame_ne_noCommand _
  case pass job =>
    unfold stepPass
    split
    · exact runCommand_ne_noCommand (busy hp rfl) ‹_›
    · split
      · nofun
      · exact withGains_ne_noCommand fun u => by cases job <;> nofun
  case ticks job =>
    unfold stepTicks
    split
    · split
      · nofun
      · exact finishFrame_ne_noCommand _
    · split <;> nofun
  case tickPre job => nofun
  case tickRun job =>
    unfold stepTickRun
    split
    · exact runCommand_ne_noCommand (busy hp rfl) ‹_›
    · split
      · nofun
      · exact withGains_ne_noCommand fun u => nofun

/-- Settles O30: closed tables, installed by every load, keep the running tracks on commands. -/
theorem stepKeepsCursorsOnCommands : Obligations.step_keeps_cursors_on_commands := by
  intro s h
  refine ⟨advance_ne_noCommand h, fun t hs => ?_⟩
  have m : Move s t := advance_move hs
  exact ⟨m.keeps_tableClosed h.1, m.keeps_cursorsLive h.1 h.2⟩

end Sys2Proof.Machine

end

/-! ## Allocation (10_state.md R46, 47_mixer_allocator.md R440 to R447, R458) -/

section

namespace Sys2Proof.Machine

variable {P : Profile} {s : State P}

/-! ### The numbering of the pool (R46) -/

theorem Profile.classOf_pcm_iff (P : Profile) (c : P.Chan) : P.classOf c = .pcm ↔ c.val < P.numPcm := by
  unfold Profile.classOf
  split <;> [skip; split <;> [skip; split]] <;> simp <;> omega

theorem Profile.classOf_square_iff (P : Profile) (c : P.Chan) :
    P.classOf c = .square ↔ P.numPcm ≤ c.val ∧ c.val < P.numPcm + P.numSquare := by
  unfold Profile.classOf
  split <;> [skip; split <;> [skip; split]] <;> simp <;> omega

theorem Profile.classOf_wave_iff (P : Profile) (c : P.Chan) :
    P.classOf c = .wave ↔ P.numPcm + P.numSquare ≤ c.val ∧ c.val < P.numPcm + P.numSquare + P.numWave := by
  unfold Profile.classOf
  split <;> [skip; split <;> [skip; split]] <;> simp <;> omega

theorem Profile.classOf_noise_iff (P : Profile) (c : P.Chan) :
    P.classOf c = .noise ↔
      P.numPcm + P.numSquare + P.numWave ≤ c.val ∧ c.val < P.numPcm + P.numSquare + P.numWave + P.numNoise := by
  have hc := c.isLt
  unfold Profile.classOf
  split <;> [skip; split <;> [skip; split]] <;> simp <;> omega

/-! ### The candidate order (R444, R458) -/

theorem ownerPrecedes_iff (new best : TrackId) :
    ownerPrecedes s new best = true ↔
      s.priorityOf new < s.priorityOf best ∨ s.priorityOf new = s.priorityOf best ∧ best.val < new.val := by
  simp [ownerPrecedes]

/-- An owner that does not precede a track of the order does not precede what comes before that track. -/
theorem not_ownerPrecedes_trans {a b c : TrackId} (hab : ¬ ownerPrecedes s a b = true) (hbc : ¬ ownerPrecedes s b c = true) :
    ¬ ownerPrecedes s a c = true := by
  rw [ownerPrecedes_iff] at *
  omega

theorem not_ownerPrecedes_of_precedes {a b : TrackId} (h : ownerPrecedes s a b = true) : ¬ ownerPrecedes s b a = true := by
  rw [ownerPrecedes_iff] at *
  omega

/-- No owner among the channels, nor the best one so far, precedes the candidate's. -/
theorem candidateOf_least (is : List P.Chan) (best : Option (P.Chan × TrackId)) {v : P.Chan} {o : TrackId}
    (h : candidateOf s is best = some (v, o)) :
    (∀ j ∈ is, ∀ u, s.channels[j].owner = some u → ¬ ownerPrecedes s u o = true) ∧
      ∀ w p, best = some (w, p) → ¬ ownerPrecedes s p o = true := by
  induction is generalizing best with
  | nil =>
    refine ⟨nofun, fun w p hb => ?_⟩
    cases hb.symm.trans h
    rw [ownerPrecedes_iff]
    omega
  | cons i is ih =>
    unfold candidateOf at h
    rw [List.forall_mem_cons]
    split at h
    · next hi =>
      obtain ⟨hall, hbest⟩ := ih _ h
      exact ⟨⟨fun u hu => (by rw [hi] at hu; cases hu), hall⟩, hbest⟩
    · next u hi =>
      obtain ⟨hall, hbest⟩ := ih _ h
      exact ⟨⟨fun u' hu => by rw [hi] at hu; cases hu; exact hbest _ _ rfl, hall⟩, nofun⟩
    · next u j p hi =>
      obtain ⟨hall, hbest⟩ := ih _ h
      split at hbest
      · next hup =>
        have hu : ¬ ownerPrecedes s u o = true := hbest _ _ rfl
        refine ⟨⟨fun u' hu' => by rw [hi] at hu'; cases hu'; exact hu, hall⟩, fun w q hq => ?_⟩
        cases hq
        exact not_ownerPrecedes_trans (not_ownerPrecedes_of_precedes hup) hu
      · next hup =>
        have hp : ¬ ownerPrecedes s p o = true := hbest _ _ rfl
        refine ⟨⟨fun u' hu' => by rw [hi] at hu'; cases hu'; exact not_ownerPrecedes_trans hup hp, hall⟩, fun w q hq => ?_⟩
        cases hq
        exact hp

/-- There is no candidate only where no channel has an owner. -/
theorem candidateOf_none (is : List P.Chan) (best : Option (P.Chan × TrackId)) (h : candidateOf s is best = none) :
    best = none ∧ ∀ j ∈ is, s.channels[j].owner = none := by
  induction is generalizing best with
  | nil => exact ⟨h, nofun⟩
  | cons i is ih =>
    unfold candidateOf at h
    rw [List.forall_mem_cons]
    split at h
    · next hi =>
      obtain ⟨hb, hall⟩ := ih _ h
      exact ⟨hb, hi, hall⟩
    · cases (ih _ h).1
    · have hb := (ih _ h).1
      split at hb <;> cases hb

/-! ### What `Allocate` takes and when it drops (R446, R447) -/

theorem stealFrom_none {t : TrackId} {best : Option (P.Chan × TrackId)} (h : stealFrom s t best = none) :
    ∀ v o, best = some (v, o) → s.priorityOf t < s.priorityOf o ∨ s.priorityOf t = s.priorityOf o ∧ o.val < t.val := by
  rintro v o rfl
  simp only [stealFrom] at h
  split at h
  · cases h
  · split at h
    · cases h
    · next hlt hle =>
      rw [Fin.le_def] at hle
      omega

/-- A channel that `Allocate` takes is idle, releasing, or its owner's priority is not higher (R447). -/
theorem allocate_takes {c : VoiceClass} {t : TrackId} {v : P.Chan} (h : allocate s c t = some v) :
    s.channels[v].state = .dead ∨ s.channels[v].state = .releasing ∨
      ∃ o, s.channels[v].owner = some o ∧ s.priorityOf o ≤ s.priorityOf t := by
  obtain h | ⟨-, h⟩ | ⟨-, -, h⟩ := allocate_some h
  · exact .inl (firstInState_some h).2
  · exact .inr (.inl (firstInState_some h).2)
  · obtain ⟨o, ho, hprio⟩ := stealFrom_some h
    obtain ⟨-, howner⟩ | hnone := candidateOf_some _ _ ho
    · exact .inr (.inr ⟨o, howner, by omega⟩)
    · cases hnone

theorem allocate_eq_none_iff (s : State P) (c : VoiceClass) (t : TrackId) :
    allocate s c t = none ↔
      firstInState s c .dead = none ∧ firstInState s c .releasing = none ∧ stealFrom s t (candidateOf s (poolOf P c) none) = none := by
  unfold allocate
  split <;> [skip; split] <;> simp [*]

theorem firstInState_eq_none_iff (s : State P) (c : VoiceClass) (e : EnvState) :
    firstInState s c e = none ↔ ∀ j, P.classOf j = c → s.channels[j].state ≠ e := by
  refine ⟨fun h j hj => firstInState_none h hj, fun h => List.find?_eq_none.2 fun j hj => ?_⟩
  simpa using h j (mem_poolOf.1 hj)

/-- No channel can be stolen exactly when every owner in the pool outranks the requester: by priority, or by index at equal priority. -/
theorem stealFrom_candidate_none_iff (s : State P) (c : VoiceClass) (t : TrackId) :
    stealFrom s t (candidateOf s (poolOf P c) none) = none ↔
      ∀ j, P.classOf j = c → ∀ o, s.channels[j].owner = some o →
        s.priorityOf t < s.priorityOf o ∨ s.priorityOf t = s.priorityOf o ∧ o.val < t.val := by
  constructor
  · intro h j hj o ho
    cases hcand : candidateOf s (poolOf P c) none with
    | none =>
      have := (candidateOf_none _ _ hcand).2 j (mem_poolOf.2 hj)
      rw [this] at ho; cases ho
    | some best =>
      obtain ⟨v, p⟩ := best
      have hleast := (candidateOf_least _ _ hcand).1 j (mem_poolOf.2 hj) o ho
      have hsteal := stealFrom_none h v p hcand
      rw [ownerPrecedes_iff] at hleast
      omega
  · intro h
    cases hcand : candidateOf s (poolOf P c) none with
    | none => rfl
    | some best =>
      obtain ⟨v, p⟩ := best
      obtain ⟨hv, hp⟩ | hnone := candidateOf_some _ _ hcand
      · have := h v (mem_poolOf.1 hv) p hp
        unfold stealFrom
        dsimp only
        rw [if_neg (by omega), if_neg (by rw [Fin.le_def]; omega)]
      · cases hnone

/-- Settles O28: the pool's numbering by the bounds of `classOf`, the channel taken and the drop by the four steps of `Allocate`. -/
theorem allocateTakesOrDrops : Obligations.allocate_takes_or_drops := by
  refine ⟨fun P c => ⟨P.classOf_pcm_iff c, P.classOf_square_iff c, P.classOf_wave_iff c, P.classOf_noise_iff c⟩, ?_, fun s c t => ?_⟩
  · show ∀ c : Fin 11, c.val < 11 ∧ _
    decide
  · refine ⟨fun v hv => ⟨allocate_class hv, allocate_takes hv⟩, ?_⟩
    rw [allocate_eq_none_iff, firstInState_eq_none_iff, firstInState_eq_none_iff, stealFrom_candidate_none_iff]
    constructor
    · rintro ⟨hdead, hrel, hrank⟩ j hj
      refine ⟨hdead j hj, hrel j hj, fun o ho => (hrank j hj o ho).imp id fun h => ?_⟩
      exact ⟨BitVec.eq_of_toNat_eq h.1, h.2⟩
    · intro h
      refine ⟨fun j hj => (h j hj).1, fun j hj => (h j hj).2.1, fun j hj o ho => ((h j hj).2.2 o ho).imp id fun h => ?_⟩
      exact ⟨congrArg BitVec.toNat h.1, h.2⟩

end Sys2Proof.Machine

end

/-! ## The mixer's law (47_mixer_allocator.md R470 to R478) -/

section

namespace Sys2Proof.Machine

variable {P : Profile}

/-! ### The sum of the unmuted tracks' buffers (R473) -/

/-- One side of the mix: the sum of the unmuted tracks' buffers. -/
def mixSide (mask : Half) (side : Int × Int → Int) (bufs : Buffers) : Int :=
  ∑ t : TrackId, if muted mask t then 0 else side bufs[t]

theorem foldl_mix (mask : Half) (bufs : Buffers) (ts : List TrackId) (acc : Int × Int) :
    ts.foldl (fun acc t => if muted mask t then acc else (acc.1 + bufs[t].1, acc.2 + bufs[t].2)) acc =
      (acc.1 + (ts.map fun t => if muted mask t then 0 else bufs[t].1).sum,
        acc.2 + (ts.map fun t => if muted mask t then 0 else bufs[t].2).sum) := by
  induction ts generalizing acc with
  | nil => simp
  | cons t ts ih =>
    rw [List.foldl_cons, ih]
    by_cases ht : muted mask t <;> simp [ht, Int.add_assoc]

theorem mixDown_eq (mask : Half) (bufs : Buffers) : mixDown mask bufs = (mixSide mask Prod.fst bufs, mixSide mask Prod.snd bufs) := by
  unfold mixDown mixSide
  rw [foldl_mix, Fin.sum_univ_def, Fin.sum_univ_def]
  simp

/-- Adding to one track's buffer adds to the mix unless the track is muted. -/
theorem mixSide_add {mask : Half} {side : Int × Int → Int} {bufs bufs' : Buffers} {u : TrackId} {c : Int}
    (h : ∀ t, side bufs'[t] = side bufs[t] + if t = u then c else 0) :
    mixSide mask side bufs' = mixSide mask side bufs + if muted mask u then 0 else c := by
  have hsplit : ∀ t, (if muted mask t then 0 else side bufs'[t]) =
      (if muted mask t then 0 else side bufs[t]) + if t = u then (if muted mask u then 0 else c) else 0 := by
    intro t
    rw [h t]
    by_cases hu : t = u
    · subst hu; by_cases ht : muted mask t <;> simp [ht]
    · simp [hu]
  unfold mixSide
  simp only [hsplit, Finset.sum_add_distrib, Finset.sum_ite_eq', Finset.mem_univ, if_true]

theorem mixDown_addTo (mask : Half) (bufs : Buffers) (u : TrackId) (x : Int) (gainL gainR : Nat) :
    mixDown mask (addTo bufs u x gainL gainR) =
      ((mixDown mask bufs).1 + (if muted mask u then 0 else contribution x gainL),
        (mixDown mask bufs).2 + if muted mask u then 0 else contribution x gainR) := by
  have hat : ∀ t : TrackId, (addTo bufs u x gainL gainR)[t] =
      if u = t then (bufs[u].1 + contribution x gainL, bufs[u].2 + contribution x gainR) else bufs[t] := fun t => vec_set_fin ..
  rw [mixDown_eq, mixDown_eq]
  refine Prod.ext (mixSide_add fun t => ?_) (mixSide_add fun t => ?_) <;>
  · rw [hat]
    by_cases hu : u = t
    · subst hu; simp
    · simp [hu, Ne.symm hu]

theorem mixDown_clearBuffers (mask : Half) : mixDown mask clearBuffers = (0, 0) := by
  rw [mixDown_eq]
  simp [mixSide, clearBuffers]

/-! ### One output sample (R470 to R473) -/

theorem contribution_eq (x : Int) (gain : Nat) : contribution x gain = x * (gain : Int) / 128 := rfl

/-- The buffers after all channels took part mix down to what was in them and the unmuted channels' parts. -/
theorem mixDown_renderChannels (rom : Memory) (mask : Half) (chs : List Channel) (bufs : Buffers) :
    mixDown mask (renderChannels Profile.reference rom chs bufs).2 =
      ((mixDown mask bufs).1 + (chs.map (Channel.mixPart rom mask Channel.gainL)).sum,
        (mixDown mask bufs).2 + (chs.map (Channel.mixPart rom mask Channel.gainR)).sum) := by
  induction chs generalizing bufs with
  | nil => simp [renderChannels]
  | cons ch rest ih =>
    unfold renderChannels
    split
    · next hlive =>
      have hstate := ch.live_iff.1 hlive
      split
      · next ho =>
        have silent (gain : Channel → Nat) : ch.mixPart rom mask gain = 0 := by simp only [Channel.mixPart, ho]
        simp only [ih, List.map_cons, List.sum_cons, silent, Int.zero_add]
      · next u ho =>
        have part (gain : Channel → Nat) : ch.mixPart rom mask gain =
            if muted mask u then 0 else contribution (renderChannel Profile.reference rom ch).1 (gain ch) := by
          simp [Channel.mixPart, ho, hstate, contribution_eq, muted]
        simp only [ih, mixDown_addTo, List.map_cons, List.sum_cons, part, Int.add_assoc]
    · next hdead =>
      have hstate : ch.state = .dead := not_not.1 (mt ch.live_iff.2 hdead)
      have silent (gain : Channel → Nat) : ch.mixPart rom mask gain = 0 := by
        unfold Channel.mixPart
        split <;> simp [hstate]
      simp only [ih, List.map_cons, List.sum_cons, silent, Int.zero_add]

/-! ### A quantum (R470, R474, R478) -/

theorem renderSamples_fade (P : Profile) (rom : Memory) (mask : Half) (n : Nat) (chs : List Channel) (fade : Fade) :
    (renderSamples P rom mask n chs fade).2.1 = fadeAdvance^[n] fade := by
  induction n generalizing chs fade with
  | zero => rfl
  | succ n ih => simp only [renderSamples, ih, Function.iterate_succ_apply]

theorem renderChannels_channels (P : Profile) (rom : Memory) (chs : List Channel) (bufs : Buffers) :
    (renderChannels P rom chs bufs).1 = chs.map (Channel.afterSample P rom) := renderChannels_fst ..

/-- Pair k of a quantum is mixed from the channels after k output samples, with the fade gain of that sample. -/
theorem renderSamples_pair (P : Profile) (rom : Memory) (mask : Half) {n k : Nat} (hk : k < n) (chs : List Channel) (fade : Fade) :
    (renderSamples P rom mask n chs fade).2.2[k]? =
      some (outputPair (mixDown mask (renderChannels P rom (chs.map (Channel.afterSample P rom)^[k]) clearBuffers).2)
        (fadeGain P.fadeExp (fadeAdvance^[k] fade))) := by
  induction n generalizing k chs fade with
  | zero => exact absurd hk (Nat.not_lt_zero k)
  | succ n ih =>
    cases k with
    | zero => simp [renderSamples]
    | succ k =>
      simp only [renderSamples, List.getElem?_cons_succ, ih (Nat.lt_of_succ_lt_succ hk), renderChannels_channels, List.map_map,
        Function.iterate_succ_apply]
      rfl

theorem clampS16_eq (x : Int) : clampS16 x = max (-32768) (min 32767 x) := by
  unfold clampS16 clamp
  split <;> [skip; split] <;> omega

theorem asr_16 (x : Int) : asr x 16 = x / 65536 := rfl

/-- `RenderQuantum()` writes the channels, the fade and `pcm_out` (R470, R478). -/
theorem State.afterQuantum_frame (s : State P) :
    s.afterQuantum =
      { s with
        channels := s.afterQuantum.channels
        fade := fadeAdvance^[P.samplesPerFrame] s.fade
        pcmOut := s.afterQuantum.pcmOut } := by
  rw [← renderSamples_fade P s.sampleRom s.muteMask P.samplesPerFrame s.channels.toList s.fade]
  rfl

theorem renderedOnce_eq (rom : Memory) : renderedOnce rom = List.map (Channel.afterSample Profile.reference rom) := by
  funext chs
  unfold renderedOnce Channel.afterSample
  simp only [Channel.live_iff]

theorem renderedOnce_iterate (rom : Memory) (k : Nat) (chs : List Channel) :
    (renderedOnce rom)^[k] chs = chs.map (Channel.afterSample Profile.reference rom)^[k] := by
  rw [renderedOnce_eq]
  induction k generalizing chs with
  | zero => simp
  | succ k ih => rw [Function.iterate_succ_apply, ih, List.map_map, Function.iterate_succ]

theorem all_renderable {s : State} (h : s.channelsRenderable) : s.channels.toList.all (Channel.renderable s.sampleRom) = true := by
  rw [List.all_eq_true]
  intro ch hch
  obtain ⟨i, hi, rfl⟩ := List.getElem_of_mem hch
  have hc := h ⟨i, by simpa using hi⟩
  simpa using hc

theorem endCheck_pcmOut (s : State P) : (endCheck s).pcmOut = s.pcmOut := by
  obtain h | h := endCheck_cases s <;> rw [h]
  rfl

/-- The pairs of a quantum by R472 to R474, from the pool after k output samples. -/
theorem State.afterQuantum_pair (s : State) {k : Nat} (hk : k < 512) :
    let chs := (renderedOnce s.sampleRom)^[k] s.channels.toList
    let g := fadeGain 2 (fadeAdvance^[k] s.fade)
    s.afterQuantum.pcmOut[k]? =
      some
        (max (-32768) (min 32767 ((chs.map (Channel.mixPart s.sampleRom s.muteMask Channel.gainL)).sum * g / 65536)),
          max (-32768) (min 32767 ((chs.map (Channel.mixPart s.sampleRom s.muteMask Channel.gainR)).sum * g / 65536))) := by
  have hpair := renderSamples_pair Profile.reference s.sampleRom s.muteMask hk s.channels.toList s.fade
  rw [mixDown_renderChannels, mixDown_clearBuffers, ← renderedOnce_iterate] at hpair
  simp only [outputPair, asr_16, clampS16_eq, Int.zero_add] at hpair
  exact hpair

/-- The step after the last tick of a played frame step (R270, R290). -/
theorem step_finishesPlayed {s : State} (hp : s.phase = .ticks .frame) (hstack : s.tempoStack < 240) (hm : s.mode = .playing)
    (hr : s.channelsRenderable) :
    step s = .next { endCheck s.afterQuantum with telemetry := telemetryOf (endCheck s.afterQuantum), phase := .boundary } := by
  have hlow : ¬ Profile.reference.tempoThresh ≤ s.tempoStack := Nat.not_le.2 hstack
  rw [step_ticks hp]
  simp only [stepTicks, if_neg hlow, finishFrame, withQuantum, if_pos hm, if_pos (all_renderable hr)]

theorem State.afterQuantum_renderedOnce (s : State) :
    s.afterQuantum.channels.toList = (renderedOnce s.sampleRom)^[512] s.channels.toList := by
  rw [renderedOnce_iterate]
  exact s.afterQuantum_toList

theorem State.afterQuantum_length (s : State) : s.afterQuantum.pcmOut.length = 512 := renderSamples_pairs_length ..

end Sys2Proof.Machine

end

/-! ## The mute mask reaches the output port only (10_state.md R37) -/

section

namespace Sys2Proof.Machine

variable {P : Profile} (mask : Half)

/-- The answer with `f` applied to its next state. -/
def onNext (f : State P → State P) : Result P → Result P
  | .next t => .next (f t)
  | .fault r => .fault r
  | .refused r => .refused r

/-- The answer under another mask. -/
def muteResult : Result P → Result P := onNext fun t => t.driveMute mask

variable {s : State P}

/-! ### Commands -/

theorem withLen_driveMute {k k' : Nat → Result P} (hk : ∀ n, k' n = muteResult mask (k n)) :
    withLen (s.driveMute mask) k' = muteResult mask (withLen s k) := by
  have hfetch : (s.driveMute mask).fetch = s.fetch := rfl
  unfold withLen
  rw [hfetch]
  split
  · rfl
  · exact hk _

theorem retire_driveMute (s : State P) (f : Track → Track) : retire (s.driveMute mask) f = muteResult mask (retire s f) :=
  withLen_driveMute mask fun _ => rfl

theorem candidateOf_driveMute (is : List P.Chan) (best : Option (P.Chan × TrackId)) :
    candidateOf (s.driveMute mask) is best = candidateOf s is best := by
  induction is generalizing best with
  | nil => rfl
  | cons i is ih => simp only [candidateOf, ih]; rfl

theorem allocate_driveMute (c : VoiceClass) (t : TrackId) : allocate (s.driveMute mask) c t = allocate s c t := by
  unfold allocate
  rw [candidateOf_driveMute]
  rfl

theorem startVoice_driveMute (s : State P) (key velocity : Nat) (dur : Int) :
    startVoice (s.driveMute mask) key velocity dur = (startVoice s key velocity dur).driveMute mask := by
  have hlook : bankLookup (s.driveMute mask).bank (s.driveMute mask).track.voice key = bankLookup s.bank s.track.voice key := rfl
  have hrom : (s.driveMute mask).sampleRom = s.sampleRom := rfl
  have halloc (i : Instrument) : allocate (s.driveMute mask) i.cls (s.driveMute mask).cur = allocate s i.cls s.cur :=
    allocate_driveMute ..
  unfold startVoice
  simp only [hlook, hrom, halloc]
  split
  · rfl
  · split
    · split <;> rfl
    · rfl

theorem noteOn_driveMute (s : State P) (key : Nat) (velocity : Byte) (dur : Int) :
    noteOn key velocity dur (s.driveMute mask) = muteResult mask (noteOn key velocity dur s) :=
  withLen_driveMute mask fun n =>
    congrArg Host.Outcome.next
      (startVoice_driveMute mask (s.setTrack s.cur { s.track.restartLfo with cursor := s.track.cursor + n }) _ _ dur)

/-- No command reads the mask (R37). -/
theorem execute_driveMute (i : Instr) (s : State P) : execute i (s.driveMute mask) = muteResult mask (execute i s) := by
  have hstack : (s.driveMute mask).track.stack = s.track.stack := rfl
  cases commandShape P i with
  | register f g h => rw [h, h]; exact retire_driveMute mask { s with tempo := g s.tempo } f
  | note key velocity dur h => rw [h, h]; exact noteOn_driveMute mask s key velocity dur
  | endOfTie key h =>
    rw [h, h]
    exact retire_driveMute mask
      (s.mapChannels fun ch => if ch.isTieOf s.cur (transposedKey key s.track.transpose) then ch.release else ch) id
  | trackOpen u target hi =>
    simp only [hi, execute, execTrackOpen]
    exact withLen_driveMute mask fun _ => rfl
  | jump target hi => rw [hi]; rfl
  | call target hi =>
    simp only [hi, execute, execCall, hstack]
    split
    · rfl
    · exact withLen_driveMute mask fun _ => rfl
  | loop count hi =>
    simp only [hi, execute, execLoop, hstack]
    split
    · rfl
    · exact withLen_driveMute mask fun _ => rfl
  | loopend hi =>
    simp only [hi, execute, execLoopend, hstack]
    split
    · rfl
    · exact retire_driveMute mask s _
    · rfl
    · rfl
  | ret hi =>
    simp only [hi, execute, execRet, hstack]
    split <;> rfl
  | fine hi => rw [hi]; rfl

end Sys2Proof.Machine

end

section

namespace Sys2Proof.Machine

variable {P : Profile} (mask : Half)

/-! ### Loads -/

/-- The accounting state whose scratch state is under another mask. -/
def Acct.driveMute (a : Acct P) : Acct P := { a with m := a.m.driveMute mask }

/-- A part of the pass under another mask: the same stop, or the same result under that mask. -/
def muteAcct : Except LoadStop (Acct P) → Except LoadStop (Acct P)
  | .ok a => .ok (a.driveMute mask)
  | .error e => .error e

variable {mask}

theorem stamp_driveMute (s : State P) : (s.driveMute mask).stamp = s.stamp.driveMute mask := by
  have hsong : (s.driveMute mask).song = s.song := rfl
  unfold State.stamp
  rw [hsong]
  split <;> rfl

theorem settle_driveMute (a : Acct P) : (a.driveMute mask).settle = a.settle.driveMute mask := by
  have hstopped : (a.driveMute mask).m.track.stopped = a.m.track.stopped := rfl
  unfold Acct.settle
  rw [hstopped]
  split <;> rfl

theorem stopOf_driveMute (a : Acct P) (f : Fault) : (a.driveMute mask).stopOf f = a.stopOf f := by
  cases f <;> rfl

theorem execute_stamp_driveMute (i : Instr) (a : Acct P) :
    execute i (a.driveMute mask).m.stamp = muteResult mask (execute i a.m.stamp) :=
  (congrArg (execute i) (stamp_driveMute a.m)).trans (execute_driveMute mask i a.m.stamp)

theorem acctExec_driveMute (n : Nat) (a : Acct P) : acctExec n (a.driveMute mask) = muteAcct mask (acctExec n a) := by
  induction n generalizing a with
  | zero =>
    have hdone : (a.driveMute mask).done[(a.driveMute mask).m.cur] = a.done[a.m.cur] := rfl
    have htrack : (a.driveMute mask).m.track = a.m.track := rfl
    unfold acctExec
    simp only [hdone, htrack]
    split
    · rw [settle_driveMute]; rfl
    · rfl
  | succ n ih =>
    have hdone : (a.driveMute mask).done[(a.driveMute mask).m.cur] = a.done[a.m.cur] := rfl
    have htrack : (a.driveMute mask).m.track = a.m.track := rfl
    have hfetch : (a.driveMute mask).m.fetch = a.m.fetch := rfl
    have helapsed : (a.driveMute mask).m.elapsed = a.m.elapsed := rfl
    unfold acctExec
    simp only [hdone, htrack, hfetch, helapsed]
    split
    · rw [settle_driveMute]; rfl
    · split
      · rfl
      · next e he =>
        split
        · split <;> rfl
        · rw [execute_stamp_driveMute]
          cases execute e.cmd a.m.stamp with
          | next m' => exact ih { a with m := m', done := reopened a.m m' a.done }
          | fault f => exact congrArg Except.error (stopOf_driveMute a f)
          | refused r => rfl

theorem overTracks_driveMute {f : TrackId → Acct P → Except LoadStop (Acct P)}
    (hf : ∀ u a, f u (a.driveMute mask) = muteAcct mask (f u a)) (us : List TrackId) (a : Acct P) :
    overTracks f us (a.driveMute mask) = muteAcct mask (overTracks f us a) := by
  induction us generalizing a with
  | nil => rfl
  | cons u us ih =>
    unfold overTracks
    rw [hf]
    cases f u a with
    | ok b => exact ih b
    | error e => rfl

theorem acctTickZero_driveMute (u : TrackId) (a : Acct P) : acctTickZero u (a.driveMute mask) = muteAcct mask (acctTickZero u a) := by
  have hdone : ((a.driveMute mask).done[u] || (a.driveMute mask).m.tracks[u].stopped) = (a.done[u] || a.m.tracks[u].stopped) := rfl
  unfold acctTickZero
  rw [hdone]
  split
  · rfl
  · exact acctExec_driveMute P.execLimit { a with m := { a.m with cur := u } }

/-- A track whose rest is over runs its command loop (R192). -/
theorem runIfRested_driveMute (a : Acct P) :
    (if (a.driveMute mask).m.track.rest = 0 then acctExec P.execLimit (a.driveMute mask) else .ok (a.driveMute mask)) =
      muteAcct mask (if a.m.track.rest = 0 then acctExec P.execLimit a else .ok a) := by
  have htrack : (a.driveMute mask).m.track = a.m.track := rfl
  rw [htrack]
  split
  · exact acctExec_driveMute P.execLimit a
  · rfl

theorem acctTrack_driveMute (u : TrackId) (a : Acct P) : acctTrack u (a.driveMute mask) = muteAcct mask (acctTrack u a) := by
  have hdone : (a.driveMute mask).done = a.done := rfl
  have htracks : (a.driveMute mask).m.tracks = a.m.tracks := rfl
  unfold acctTrack
  simp only [hdone, htracks]
  split
  · exact runIfRested_driveMute { a with m := { a.m.setTrack u a.m.tracks[u].countRest with cur := u } }
  · rfl

theorem acctLoop_driveMute (n : Nat) (a : Acct P) : acctLoop n (a.driveMute mask) = muteAcct mask (acctLoop n a) := by
  induction n generalizing a with
  | zero =>
    have hall : (a.driveMute mask).allDone = a.allDone := rfl
    unfold acctLoop
    rw [hall]
    split <;> rfl
  | succ n ih =>
    have hall : (a.driveMute mask).allDone = a.allDone := rfl
    have hpass : overTracks acctTrack (List.finRange Config.maxTracks)
        { a.driveMute mask with m := { (a.driveMute mask).m with elapsed := (a.driveMute mask).m.elapsed + 1 } } =
      muteAcct mask (overTracks acctTrack (List.finRange Config.maxTracks) { a with m := { a.m with elapsed := a.m.elapsed + 1 } }) :=
      overTracks_driveMute acctTrack_driveMute _ { a with m := { a.m with elapsed := a.m.elapsed + 1 } }
    unfold acctLoop
    rw [hall]
    simp only [hpass]
    split
    · rfl
    · cases overTracks acctTrack (List.finRange Config.maxTracks) { a with m := { a.m with elapsed := a.m.elapsed + 1 } } with
      | ok b => exact ih b
      | error e => rfl

theorem longestOf_driveMute (a : Acct P) (us : List TrackId) (best : Option TrackId) :
    longestOf (a.driveMute mask) us best = longestOf a us best := by
  have htracks : (a.driveMute mask).m.tracks = a.m.tracks := rfl
  have hlength : (a.driveMute mask).length = a.length := rfl
  induction us generalizing best with
  | nil => rfl
  | cons u us ih => simp only [longestOf, htracks, hlength, ih]

theorem acctResult_driveMute (a : Acct P) (g : SongTable) : acctResult (a.driveMute mask) g = acctResult a g := by
  unfold acctResult
  rw [longestOf_driveMute]
  rfl

/-- A load does not read the mask. -/
theorem load_driveMute (s : State P) (song : Song) : load (s.driveMute mask) song = load s song := by
  unfold load
  split
  · rfl
  · next tables _ =>
    have hzero := overTracks_driveMute (mask := mask) acctTickZero_driveMute (List.finRange Config.maxTracks)
      (acctStart s (song.trim P) tables)
    have hstart : acctStart (s.driveMute mask) (song.trim P) tables = (acctStart s (song.trim P) tables).driveMute mask := rfl
    unfold account
    rw [hstart, hzero]
    cases overTracks acctTickZero (List.finRange Config.maxTracks) (acctStart s (song.trim P) tables) with
    | error e => rfl
    | ok b =>
      simp only [muteAcct, acctLoop_driveMute]
      cases acctLoop P.accountLimit b with
      | error e => rfl
      | ok c =>
        have hsong : (c.driveMute mask).m.song = c.m.song := rfl
        simp only [hsong]
        split
        · rfl
        · exact congrArg Except.ok (acctResult_driveMute c _)

/-! ### Steps -/

variable (mask)

theorem withGains_driveMute {k : State P → Result P} (hk : ∀ u, k (u.driveMute mask) = muteResult mask (k u)) (s : State P) :
    withGains (s.driveMute mask) k = muteResult mask (withGains s k) := by
  have hchannels : (s.driveMute mask).channels = s.channels := rfl
  unfold withGains
  rw [hchannels]
  split
  · exact hk (s.mapChannels s.regainChannel)
  · rfl

theorem fadeTrigger_driveMute (threshold : Option Nat) (s : State P) :
    fadeTrigger threshold (s.driveMute mask) = (fadeTrigger threshold s).driveMute mask := by
  have hcount : (s.driveMute mask).loopCount = s.loopCount := rfl
  have hfade : (s.driveMute mask).fade = s.fade := rfl
  unfold fadeTrigger
  rw [hcount, hfade]
  split
  · rfl
  · split <;> rfl

theorem loopCheck_driveMute (s : State P) : loopCheck (s.driveMute mask) = (loopCheck s).driveMute mask := by
  have hseek : (s.driveMute mask).seeking = s.seeking := rfl
  have hloop : (s.driveMute mask).loopStartTick = s.loopStartTick := rfl
  have helapsed : (s.driveMute mask).elapsed = s.elapsed := rfl
  have hmax : (s.driveMute mask).maxTicks = s.maxTicks := rfl
  unfold loopCheck
  rw [hseek, hloop, helapsed, hmax]
  split
  · rfl
  · split
    · rfl
    · split
      · exact fadeTrigger_driveMute mask P.loopThreshold { s with elapsed := _, loopCount := s.loopCount + 1 }
      · rfl

theorem runCommand_driveMute (s : State P) : runCommand (s.driveMute mask) = muteResult mask (runCommand s) := by
  have hfetch : (s.driveMute mask).fetch = s.fetch := rfl
  unfold runCommand
  rw [hfetch]
  split
  · rfl
  · exact execute_driveMute mask _ s

theorem performLoad_driveMute (song : Song) (s : State P) :
    performLoad song (s.driveMute mask) = muteResult mask (performLoad song s) := by
  have hunload : (s.driveMute mask).unload song = (s.unload song).driveMute mask := rfl
  unfold performLoad
  rw [hunload, load_driveMute]
  split
  · rfl
  · split <;> rfl

/-- No host command reads the mask. -/
theorem perform_driveMute (c : HostCmd) (s : State P) : perform c (s.driveMute mask) = muteResult mask (perform c s) := by
  have hmode : (s.driveMute mask).mode = s.mode := rfl
  cases c with
  | loadSong song => exact performLoad_driveMute mask song s
  | shutDown => rfl
  | play => simp only [perform, performPlay, hmode]; cases s.mode <;> rfl
  | stop => simp only [perform, performStop, hmode]; cases s.mode <;> rfl
  | pause => simp only [perform, performPause, hmode]; cases s.mode <;> rfl
  | setCurrentPosition n => simp only [perform, performSeek, hmode]; cases s.mode <;> rfl
  | fadeIn => simp only [perform, performFadeIn, hmode]; cases s.mode <;> rfl

/-- A quantum under another mask renders the same channels and the same fade (R473, R478). -/
theorem afterQuantum_driveMute (s : State P) :
    (s.driveMute mask).afterQuantum = { s.afterQuantum.driveMute mask with pcmOut := (s.driveMute mask).afterQuantum.pcmOut } := by
  have hchannels : (s.driveMute mask).afterQuantum.channels = s.afterQuantum.channels :=
    Vector.ext fun i hi => ((s.driveMute mask).afterQuantum_channel ⟨i, hi⟩).trans (s.afterQuantum_channel ⟨i, hi⟩).symm
  have hfade : (s.driveMute mask).afterQuantum.fade = s.afterQuantum.fade :=
    (renderSamples_fade ..).trans (renderSamples_fade ..).symm
  calc (s.driveMute mask).afterQuantum
      = { s.driveMute mask with
          channels := (s.driveMute mask).afterQuantum.channels
          fade := (s.driveMute mask).afterQuantum.fade
          pcmOut := (s.driveMute mask).afterQuantum.pcmOut } := rfl
    _ = { s.afterQuantum.driveMute mask with pcmOut := (s.driveMute mask).afterQuantum.pcmOut } := by rw [hchannels, hfade]; rfl

/-- The end check and the telemetry read neither the mask nor `pcm_out` (R290, R507). -/
theorem endCheck_sameButOutput (s : State P) (out : List (Int × Int)) :
    endCheck { s.driveMute mask with pcmOut := out } = { (endCheck s).driveMute mask with pcmOut := out } := by
  by_cases h : s.mode = .playing ∧ ((s.tracks.toList.all Track.stopped && !s.anyLive) = true ∨ s.fade = .done)
  · have hs : endCheck s = s.stopAll := if_pos h
    rw [hs]
    exact if_pos h
  · have hs : endCheck s = s := if_neg h
    rw [hs]
    exact if_neg h

/-- The answer `r'` is `r` under another mask but for `pcm_out`, where `r` answers a next state. -/
def SameButOutput (r r' : Result P) : Prop := ∀ t, r = .next t → ∃ out, r' = .next { t.driveMute mask with pcmOut := out }

variable {mask}

theorem sameButOutput_of_eq {r r' : Result P} (h : r' = muteResult mask r) : SameButOutput mask r r' := by
  rintro t rfl
  exact ⟨t.pcmOut, h⟩

theorem finishFrame_sameButOutput (s : State P) : SameButOutput mask (finishFrame s) (finishFrame (s.driveMute mask)) := by
  have hmode : (s.driveMute mask).mode = s.mode := rfl
  have hrender : (s.driveMute mask).channels.toList.all (Channel.renderable (s.driveMute mask).sampleRom) =
      s.channels.toList.all (Channel.renderable s.sampleRom) := rfl
  intro t ht
  by_cases hm : s.mode = .playing
  · obtain ⟨-, hr, rfl⟩ | ⟨hm', -⟩ := finishFrame_next ht
    · refine ⟨(s.driveMute mask).afterQuantum.pcmOut, ?_⟩
      simp only [finishFrame, withQuantum, hmode, hrender, if_pos hm, if_pos hr]
      rw [afterQuantum_driveMute, endCheck_sameButOutput]
      rfl
    · exact absurd hm hm'
  · rw [finishFrame_silent hm] at ht
    cases ht
    exact ⟨silentQuantum P, finishFrame_silent (s := s.driveMute mask) hm⟩

theorem stepHost_sameButOutput (s : State P) : SameButOutput mask (stepHost s) (stepHost (s.driveMute mask)) := by
  have htaken : (s.driveMute mask).taken = s.taken := rfl
  have hmode : (s.driveMute mask).mode = s.mode := rfl
  unfold stepHost
  rw [htaken, hmode]
  split
  · next c cs _ => exact sameButOutput_of_eq (perform_driveMute mask c { s with taken := cs })
  · split
    · exact sameButOutput_of_eq rfl
    · exact finishFrame_sameButOutput s

theorem stepPass_driveMute (job : PassJob) (s : State P) : stepPass job (s.driveMute mask) = muteResult mask (stepPass job s) := by
  have htrack : (s.driveMute mask).track = s.track := rfl
  have hcur : (s.driveMute mask).cur = s.cur := rfl
  unfold stepPass
  rw [htrack, hcur]
  split
  · exact runCommand_driveMute mask s
  · split
    · rfl
    · exact withGains_driveMute mask (fun u => by cases job <;> rfl) s

theorem stepTicks_sameButOutput (job : TickJob) (s : State P) :
    SameButOutput mask (stepTicks job s) (stepTicks job (s.driveMute mask)) := by
  have hstack : (s.driveMute mask).tempoStack = s.tempoStack := rfl
  have helapsed : (s.driveMute mask).elapsed = s.elapsed := rfl
  have hmax : (s.driveMute mask).maxTicks = s.maxTicks := rfl
  unfold stepTicks
  cases job with
  | frame =>
    simp only [hstack]
    split
    · exact sameButOutput_of_eq rfl
    · exact finishFrame_sameButOutput s
  | seek m target =>
    simp only [helapsed, hmax]
    split <;> exact sameButOutput_of_eq rfl

theorem stepTickRun_driveMute (job : TickJob) (s : State P) :
    stepTickRun job (s.driveMute mask) = muteResult mask (stepTickRun job s) := by
  have htrack : (s.driveMute mask).track = s.track := rfl
  have hcur : (s.driveMute mask).cur = s.cur := rfl
  unfold stepTickRun
  rw [htrack, hcur]
  split
  · exact runCommand_driveMute mask s
  · split
    · rfl
    · exact withGains_driveMute mask (fun u => by rw [loopCheck_driveMute]; rfl) s

/-- With another mask a step does the same to every field but `pcm_out` (R37, R473). -/
theorem advance_sameButOutput (s : State P) : SameButOutput mask (advance s) (advance (s.driveMute mask)) := by
  have hphase : (s.driveMute mask).phase = s.phase := rfl
  unfold advance
  rw [hphase]
  cases s.phase with
  | boundary => exact sameButOutput_of_eq rfl
  | host => exact stepHost_sameButOutput s
  | pass job => exact sameButOutput_of_eq (stepPass_driveMute job s)
  | ticks job => exact stepTicks_sameButOutput job s
  | tickPre job => exact sameButOutput_of_eq rfl
  | tickRun job => exact sameButOutput_of_eq (stepTickRun_driveMute job s)

/-- Settles O48: the quantum is mixed pair by pair, and the mask reaches `pcm_out` alone. -/
theorem mixingLawAndMute : Obligations.mixing_law_and_mute :=
  ⟨fun s hp hstack hm hr =>
    ⟨s.afterQuantum, s.afterQuantum_frame, s.afterQuantum_renderedOnce, step_finishesPlayed hp hstack hm hr, endCheck_pcmOut _,
      s.afterQuantum_length, fun _ hk => s.afterQuantum_pair hk⟩,
    fun s t _ h => advance_sameButOutput s t h⟩

end Sys2Proof.Machine

end

/-! ## Live channels can be rendered (20_memory.md R113, 44_voice_adpcm.md R357, 45_voice_pcm_resampler.md R387, R389) -/

section

namespace Sys2Proof.Machine

/-! ### The loop snapshot is taken in time (R357 to R361) -/

/-- R357: the decoder of a looping region has its snapshot, or has not decoded past the loop point. -/
def Codec.snapInTime (g : Region) (q : Codec) : Prop := g.loopOk = true → q.snap.isSome = true ∨ q.nib ≤ g.loopStart

section

variable (P : Profile) (rom : Memory) {g : Region} {q : Codec}

theorem Codec.init_snapInTime : (Codec.init P rom g).snapInTime g := fun _ => .inr (Nat.zero_le _)

theorem Codec.trySnapshot_snapInTime (h : q.snapInTime g) : (q.trySnapshot g).snapInTime g := by
  unfold Codec.trySnapshot
  split
  · exact fun _ => .inl rfl
  · exact h

/-- A decoder before the loop point steps to it at most; one that stands on it without a snapshot takes it first. -/
theorem Codec.advance_snapInTime (h : q.snapInTime g) : (q.advance P rom g).snapInTime g := by
  intro hloop
  show (q.trySnapshot g).snap.isSome = true ∨ (q.trySnapshot g).nib + 1 ≤ g.loopStart
  unfold Codec.trySnapshot
  split
  · exact .inl rfl
  · next hdue =>
    obtain hsnap | hle := h hloop
    · exact .inl hsnap
    · cases hs : q.snap with
      | some p => exact .inl rfl
      | none => exact .inr (Nat.lt_of_le_of_ne hle fun hat => hdue ⟨hloop, hs, hat⟩)

theorem Codec.advanceBy_snapInTime (n : Nat) (h : q.snapInTime g) : (Codec.advanceBy P rom g n q).snapInTime g := by
  induction n generalizing q with
  | zero => exact h
  | succ n ih => exact ih (Codec.advance_snapInTime P rom h)

/-- A wrap restores the snapshot and keeps it, or takes it on the way (R359, R387). -/
theorem Codec.wrap_snapInTime (h : q.snapInTime g) : (q.wrap P rom g).snapInTime g := by
  unfold Codec.wrap
  split
  · next p hp => exact fun _ => .inl (Option.isSome_iff_exists.2 ⟨p, hp⟩)
  · exact Codec.trySnapshot_snapInTime (Codec.advanceBy_snapInTime P rom _ h)

end

/-! ### Positions stay in their region (R387, R389) -/

/-- A channel that plays region g may be rendered: g lies in `sample_rom`, the position in g, and the snapshot is taken in time. -/
structure Channel.WithinRegion (rom : Memory) (g : Region) (ch : Channel) : Prop where
  fits : g.fits rom = true
  pos : ch.pos < g.length
  codec : g.format = .adpcm → ch.codec.snapInTime g

theorem Channel.withinRegion_iff (rom : Memory) (g : Region) (ch : Channel) :
    ch.WithinRegion rom g ↔ g.fits rom = true ∧ ch.pos < g.length ∧ (g.format = .adpcm → ch.codec.snapInTime g) :=
  ⟨fun ⟨hfits, hpos, hcodec⟩ => ⟨hfits, hpos, hcodec⟩, fun ⟨hfits, hpos, hcodec⟩ => ⟨hfits, hpos, hcodec⟩⟩

theorem Channel.renderable_iff (rom : Memory) (ch : Channel) :
    ch.renderable rom = true ↔
      (ch.state ≠ .dead → ch.owner.isSome = true ∧ ∃ i, ch.inst = some i ∧ ∀ g, i.payload = .pcm g → ch.WithinRegion rom g) := by
  have hcodec (g : Region) : (g.format = .adpcm → ch.codec.snapInTime g) ↔
      ((g.format ≠ .adpcm ∨ g.loopOk = false) ∨ ch.codec.snap.isSome = true) ∨ ch.codec.nib ≤ g.loopStart := by
    unfold Codec.snapInTime
    cases g.loopOk <;> simp
    tauto
  by_cases hl : ch.state = .dead
  · simp [Channel.renderable, Channel.live, hl]
  · cases hi : ch.inst with
    | none => simp [Channel.renderable, Channel.live, hl, hi]
    | some i =>
      cases hp : i.payload with
      | pcm g => simp [Channel.renderable, Channel.live, hl, hi, hp, withinRegion_iff, hcodec, and_assoc]
      | square d => simp [Channel.renderable, Channel.live, hl, hi, hp]
      | wave w => simp [Channel.renderable, Channel.live, hl, hi, hp]
      | noise p => simp [Channel.renderable, Channel.live, hl, hi, hp]

theorem Channel.renderable_of_dead (rom : Memory) {ch : Channel} (h : ch.state = .dead) : ch.renderable rom = true :=
  (ch.renderable_iff rom).2 fun hlive => absurd h hlive

/-- A live channel that keeps its owner, its record, its position and its decoder stays renderable. -/
theorem Channel.renderable_of_fields {rom : Memory} {ch ch' : Channel} (h : ch.renderable rom = true)
    (hlive : ch'.state ≠ .dead → ch.state ≠ .dead ∧ ch'.owner = ch.owner) (hi : ch'.inst = ch.inst) (hp : ch'.pos = ch.pos)
    (hc : ch'.codec = ch.codec) : ch'.renderable rom = true := by
  rw [Channel.renderable_iff] at h ⊢
  intro hl
  obtain ⟨hl', ho⟩ := hlive hl
  obtain ⟨hown, i, hinst, hreg⟩ := h hl'
  refine ⟨ho ▸ hown, i, hi ▸ hinst, fun g hg => ?_⟩
  obtain ⟨hfits, hpos, hcodec⟩ := hreg g hg
  exact ⟨hfits, hp ▸ hpos, hc ▸ hcodec⟩

section

variable (P : Profile) (rom : Memory)

theorem resample_codec_snapInTime {g : Region} {ch : Channel} (h : g.format = .adpcm → ch.codec.snapInTime g) :
    g.format = .adpcm → (resample P rom g ch).2.snapInTime g := by
  intro hg
  simp only [resample, hg]
  exact Codec.advanceBy_snapInTime P rom _ (h hg)

theorem Region.loopStart_lt (g : Region) (h : g.loopOk = true) : g.loopStart < g.length := by
  simp only [Region.loopOk, Bool.and_eq_true, decide_eq_true_eq] at h
  exact h.2

/-- R387: a wrap puts the position between the loop point and the end. -/
theorem Channel.wrap_within {g : Region} {ch : Channel} (hfits : g.fits rom = true) (hloop : g.loopOk = true)
    (hcodec : g.format = .adpcm → ch.codec.snapInTime g) : (ch.wrap P rom g).WithinRegion rom g := by
  have hlt := g.loopStart_lt hloop
  refine ⟨hfits, ?_, fun hg => ?_⟩
  · have hmod := Nat.mod_lt (ch.pos - g.length) (Nat.sub_pos_of_lt hlt)
    show g.loopStart + (ch.pos - g.length) % (g.length - g.loopStart) < g.length
    omega
  · simp only [Channel.wrap, if_pos hg]
    exact Codec.wrap_snapInTime P rom (hcodec hg)

/-- R384, R387, R388: after an output sample a channel is still within its region, or its sample has ended. -/
theorem renderPcm_within {g : Region} {ch : Channel} (h : ch.WithinRegion rom g) :
    (renderPcm P rom g ch).2.state = .dead ∨ (renderPcm P rom g ch).2.WithinRegion rom g := by
  have hcodec := resample_codec_snapInTime P rom h.codec
  unfold renderPcm Channel.endCheck
  dsimp only
  split
  · split
    · exact .inr (Channel.wrap_within P rom h.fits ‹_› hcodec)
    · exact .inl rfl
  · exact .inr ⟨h.fits, by omega, hcodec⟩

theorem renderChannel_renderable {ch : Channel} (h : ch.renderable rom = true) : (renderChannel P rom ch).2.renderable rom = true := by
  rw [Channel.renderable_iff] at h ⊢
  intro hlive
  obtain ⟨hs, ho⟩ | ⟨hs, -⟩ := renderChannel_life ch P rom
  · obtain ⟨hown, i, hi, hreg⟩ := h (hs ▸ hlive)
    obtain ⟨st, o, pos, frac, phase, lfsr, q, -, -, hx⟩ := renderChannel_frame P rom ch
    refine ⟨ho ▸ hown, i, by rw [hx]; exact hi, fun g hg => ?_⟩
    have hpcm : (renderChannel P rom ch).2 = (renderPcm P rom g ch).2 := by simp only [renderChannel, hi, hg]
    rw [hpcm] at hlive ⊢
    exact (renderPcm_within P rom (hreg g hg)).resolve_left hlive
  · exact absurd hs hlive

end

/-! ### O37 -/

/-- A tick takes the owner of a channel only with its life (R320). -/
theorem Channel.tick_owner (law : EnvLaw) (ch : Channel) (h : (ch.tick law).state ≠ .dead) : (ch.tick law).owner = ch.owner := by
  unfold Channel.tick at h ⊢
  obtain ⟨-, hx⟩ | ⟨l, st, -, -, -, hx⟩ | ⟨l, -, -, hx⟩ := ch.countdown.envStep_cases law <;> rw [hx] at h ⊢
  · exact ch.countdown_owner
  · exact ch.countdown_owner
  · exact absurd rfl h

/-- A new note starts at the beginning of its region, with no nibble decoded yet (R352, R452). -/
theorem channelInit_renderable (P : Profile) (rom : Memory) (o : TrackId) (t : Track) (key velocity : Nat) (dur : Int) {i : Instrument}
    (ch : Channel) (hrange : i.inRange = true) (hfits : i.fits rom = true) :
    (channelInit P rom o t key velocity dur i ch).renderable rom = true := by
  refine (Channel.renderable_iff ..).2 fun _ => ⟨rfl, i, rfl, fun g hg => ?_⟩
  simp only [Instrument.inRange, hg, Region.inRange, Bool.and_eq_true, decide_eq_true_eq] at hrange
  obtain ⟨-, ⟨⟨⟨⟨-, hlen⟩, -⟩, -⟩, -⟩⟩ := hrange
  refine ⟨by simpa only [Instrument.fits, hg] using hfits, hlen, fun hadpcm => ?_⟩
  show (initCodec P rom i ch.codec).snapInTime g
  simp only [initCodec, hg, if_pos hadpcm]
  exact Codec.init_snapInTime P rom

theorem renderable_stable (P : Profile) (rom : Memory) :
    ChannelStable P rom (fun _ => True) fun _ ch => ch.renderable rom = true where
  die _ _ _ := Channel.renderable_of_dead rom rfl
  release _ ch h := by
    refine Channel.renderable_of_fields h (fun hl => ⟨mt ch.release_dead.2 hl, ch.release_owner⟩) ch.release_inst ?_ ?_ <;>
      rw [ch.release_eq]
  tick _ ch h := by
    refine Channel.renderable_of_fields h (fun hl => ⟨?_, ch.tick_owner _ hl⟩) ?_ ?_ ?_ <;>
      obtain ⟨st, o, l, hst, -, hx⟩ := ch.tick_frame _
    · rw [hx] at hl; exact hst hl
    all_goals rw [hx]
  regain _ _ _ _ h := Channel.renderable_of_fields h (fun hl => ⟨hl, rfl⟩) rfl rfl rfl
  render _ _ h := renderChannel_renderable P rom h
  init _ ch o t key velocity dur _ _ hrange hfits _ _ _ _ := channelInit_renderable P rom o t key velocity dur ch hrange hfits

/-- No move writes `sample_rom` (R114). -/
theorem Move.sampleRom_eq {P : Profile} {s t : State P} (m : Move s t) : t.sampleRom = s.sampleRom := by
  cases m with
  | runs e hp hrun he hx => rw [execute_frame hx]
  | tickEnds => rw [loopCheck_frame]; rfl
  | finishesPlayed => obtain h | h := endCheck_cases s.afterQuantum <;> simp only [h] <;> rfl
  | frameBegins | commandIgnored | playStarts | playResumes | stops | pauses | seekStarts | fadesIn | shutsDown | loads | loadFails |
    accumulates | finishesSilent | passNext | passEndsInPlay | passEndsInSeek | frameTickBegins | seekTickBegins | seekEnds |
    trackTicks | tickNext => rfl

/-! ### Only gains and quanta find an unsound channel (log 15) -/

section

variable {P : Profile}

theorem withLen_ne_unsoundChannel {s : State P} {k : Nat → Result P} (hk : ∀ n, k n ≠ .fault .unsoundChannel) :
    withLen s k ≠ .fault .unsoundChannel := by
  unfold withLen
  split
  · nofun
  · exact hk _

theorem retire_ne_unsoundChannel (s : State P) (f : Track → Track) : retire s f ≠ .fault .unsoundChannel :=
  withLen_ne_unsoundChannel fun _ => nofun

/-- A command stops for its stack's errors (R243 to R246) or for want of a command, and for nothing else. -/
theorem execute_ne_unsoundChannel (i : Instr) (s : State P) : execute i s ≠ .fault .unsoundChannel := by
  cases commandShape P i with
  | register f g h => rw [h]; exact retire_ne_unsoundChannel _ _
  | note key velocity dur h => rw [h]; exact withLen_ne_unsoundChannel fun _ => nofun
  | endOfTie key h => rw [h]; exact retire_ne_unsoundChannel _ _
  | trackOpen u target hi => rw [hi, execute, execTrackOpen]; exact withLen_ne_unsoundChannel fun _ => nofun
  | jump target hi => rw [hi]; nofun
  | call target hi =>
    rw [hi, execute, execCall]
    split
    · nofun
    · exact withLen_ne_unsoundChannel fun _ => nofun
  | loop count hi =>
    rw [hi, execute, execLoop]
    split
    · nofun
    · exact withLen_ne_unsoundChannel fun _ => nofun
  | loopend hi =>
    rw [hi, execute, execLoopend]
    split
    · nofun
    · exact retire_ne_unsoundChannel _ _
    · nofun
    · nofun
  | ret hi =>
    rw [hi, execute, execRet]
    split <;> nofun
  | fine hi => rw [hi]; nofun

theorem runCommand_ne_unsoundChannel (s : State P) : runCommand s ≠ .fault .unsoundChannel := by
  unfold runCommand
  split
  · nofun
  · exact execute_ne_unsoundChannel _ _

/-- A part of a load did not find an unsound channel. -/
def ChannelsUnread {α : Type} (r : Except LoadStop α) : Prop := r ≠ .error (.fault .unsoundChannel)

/-- An error handed on from an earlier part. -/
theorem ChannelsUnread.handOn {α β : Type} {r : Except LoadStop α} {e : LoadStop} (h : ChannelsUnread r) (he : r = .error e) :
    ChannelsUnread (.error e : Except LoadStop β) :=
  fun hf => h (he.trans (congrArg Except.error (Except.error.inj hf)))

theorem Acct.stopOf_ne_unsoundChannel (a : Acct P) {f : Fault} (h : f ≠ .unsoundChannel) : a.stopOf f ≠ .fault .unsoundChannel := by
  cases f with
  | unsoundChannel => exact absurd rfl h
  | _ => nofun

theorem acctExec_channelsUnread (n : Nat) (a : Acct P) : ChannelsUnread (acctExec n a) := by
  induction n generalizing a with
  | zero =>
    unfold acctExec
    split <;> nofun
  | succ n ih =>
    unfold acctExec
    split
    · nofun
    · dsimp only
      split
      · nofun
      · split
        · split <;> nofun
        · split
          · exact ih _
          · next f hf => exact fun h => a.stopOf_ne_unsoundChannel (fun hu => execute_ne_unsoundChannel _ _ (hu ▸ hf)) (Except.error.inj h)
          · nofun

theorem overTracks_channelsUnread {f : TrackId → Acct P → Except LoadStop (Acct P)} (hf : ∀ u a, ChannelsUnread (f u a))
    (us : List TrackId) (a : Acct P) : ChannelsUnread (overTracks f us a) := by
  induction us generalizing a with
  | nil => nofun
  | cons u us ih =>
    unfold overTracks
    split
    · exact ih _
    · next e he => exact (hf u a).handOn he

theorem acctTickZero_channelsUnread (u : TrackId) (a : Acct P) : ChannelsUnread (acctTickZero u a) := by
  unfold acctTickZero
  split
  · nofun
  · exact acctExec_channelsUnread _ _

theorem acctTrack_channelsUnread (u : TrackId) (a : Acct P) : ChannelsUnread (acctTrack u a) := by
  unfold acctTrack
  split
  · dsimp only
    split
    · exact acctExec_channelsUnread _ _
    · nofun
  · nofun

theorem acctLoop_channelsUnread (n : Nat) (a : Acct P) : ChannelsUnread (acctLoop n a) := by
  induction n generalizing a with
  | zero =>
    unfold acctLoop
    split <;> nofun
  | succ n ih =>
    unfold acctLoop
    split
    · nofun
    · dsimp only
      split
      · exact ih _
      · next e he => exact (overTracks_channelsUnread acctTrack_channelsUnread _ _).handOn he

theorem walkLoop_channelsUnread (P : Profile) (rom : Memory) (n : Nat) (w : Walk) : ChannelsUnread (walkLoop P rom n w) := by
  induction n generalizing w with
  | zero => nofun
  | succ n ih =>
    unfold walkLoop
    split
    · exact ih _
    · nofun
    · nofun

theorem walk_channelsUnread (P : Profile) (song : Song) : ChannelsUnread (walk P song) := by
  unfold walk
  split
  · nofun
  · exact walkLoop_channelsUnread _ _ _ _

theorem account_channelsUnread (s : State P) (song : Song) (tables : WalkTables) : ChannelsUnread (account s song tables) := by
  unfold account
  split
  · next e he => exact (overTracks_channelsUnread acctTickZero_channelsUnread _ _).handOn he
  · split
    · next e he => exact (acctLoop_channelsUnread _ _).handOn he
    · split <;> nofun

/-- Neither the walk nor the accounting pass reads a channel for its sound (R190). -/
theorem load_channelsUnread (s : State P) (song : Song) : ChannelsUnread (load s song) := by
  unfold load
  split
  · next e he => exact (walk_channelsUnread _ _).handOn he
  · exact account_channelsUnread _ _ _

/-- A host command fails by its load only (R491). -/
theorem perform_ne_unsoundChannel (c : HostCmd) (s : State P) : perform c s ≠ .fault .unsoundChannel := by
  rcases perform_cases c s with ⟨song, rfl⟩ | h | ⟨-, -, h⟩ | ⟨-, -, h⟩ | ⟨-, -, h⟩ | ⟨-, -, h⟩ | ⟨n, -, -, h⟩ | ⟨-, -, h⟩ | ⟨-, h⟩
  · show performLoad song s ≠ _
    unfold performLoad
    split
    · nofun
    · split
      · nofun
      · nofun
      · next f hf => exact fun h => load_channelsUnread _ _ (hf.trans (by cases h; rfl))
      · nofun
  all_goals rw [h]; nofun

/-- R48: a renderable channel has its owner and its record. -/
theorem Channel.bound_of_renderable {rom : Memory} {ch : Channel} (h : ch.renderable rom = true) : ch.bound = true := by
  unfold Channel.bound
  cases hl : ch.live with
  | false => rfl
  | true =>
    obtain ⟨ho, i, hi, -⟩ := (ch.renderable_iff rom).1 h (ch.live_iff.1 hl)
    rw [ho, hi]; rfl

theorem withGains_ne_unsoundChannel {s : State P} {k : State P → Result P}
    (h : s.channels.toList.all (Channel.renderable s.sampleRom) = true) (hk : ∀ u, k u ≠ .fault .unsoundChannel) :
    withGains s k ≠ .fault .unsoundChannel := by
  have hb : s.channels.toList.all Channel.bound = true :=
    List.all_eq_true.2 fun ch hch => Channel.bound_of_renderable (List.all_eq_true.1 h ch hch)
  rw [withGains, if_pos hb]
  exact hk _

theorem finishFrame_ne_unsoundChannel {s : State P} (h : s.channels.toList.all (Channel.renderable s.sampleRom) = true) :
    finishFrame s ≠ .fault .unsoundChannel := by
  rw [finishFrame, withQuantum, if_pos h]
  split <;> nofun

/-- With every channel renderable a step passes the check of gains and that of a quantum. -/
theorem advance_ne_unsoundChannel {s : State P} (h : s.channels.toList.all (Channel.renderable s.sampleRom) = true) :
    advance s ≠ .fault .unsoundChannel := by
  cases hp : s.phase <;> simp only [advance, hp]
  case boundary => nofun
  case host =>
    unfold stepHost
    split
    · exact perform_ne_unsoundChannel _ _
    · split
      · nofun
      · exact finishFrame_ne_unsoundChannel h
  case pass job =>
    unfold stepPass
    split
    · exact runCommand_ne_unsoundChannel _
    · split
      · nofun
      · exact withGains_ne_unsoundChannel h fun u => by cases job <;> nofun
  case ticks job =>
    unfold stepTicks
    split
    · split
      · nofun
      · exact finishFrame_ne_unsoundChannel h
    · split <;> nofun
  case tickPre job => nofun
  case tickRun job =>
    unfold stepTickRun
    split
    · exact runCommand_ne_unsoundChannel _
    · split
      · nofun
      · exact withGains_ne_unsoundChannel h fun u => nofun

end

/-- Settles O37: the operations on a channel keep it renderable, and renderable channels pass both checks of log 15. -/
theorem stepKeepsChannelsRenderable : Obligations.step_keeps_channels_renderable := by
  intro s h
  refine ⟨advance_ne_unsoundChannel (all_renderable h), fun t hs => ?_⟩
  have m : Move s t := advance_move hs
  show ∀ c : ChanId, t.channels[c].renderable t.sampleRom = true
  rw [m.sampleRom_eq]
  exact m.keeps_channels (renderable_stable _ _) (fun _ _ _ _ => trivial) h

end Sys2Proof.Machine

end

/-! ## What a command can do outside its own track (20_memory.md R114, R117, 41_track_commands.md R221, R223, R247, R249) -/

section

namespace Sys2Proof.Machine

/-- The three note-on commands (R221). -/
def Instr.startsNote (i : Instr) : Prop := ∃ k v, i = .tie k v ∨ ∃ d, i = .note k v d ∨ i = .notec k v d

/-- Everything a command can do to the state, whatever it makes of its own track: one constructor for each thing outside that track that
it can write. -/
inductive Effect {P : Profile} (s : State P) : Instr → State P → Prop
  | ownTrack {i : Instr} (x : Track) : Effect s i (s.setTrack s.cur x)
  | setsTempo (tempo : Half) (x : Track) : Effect s (.tempo tempo) ({ s with tempo := tempo }.setTrack s.cur x)
  | opens (u : TrackId) (target : Off24) (x : Track) :
      Effect s (.trackOpen u target) ((s.setTrack u (s.tracks[u].openAt target)).setTrack s.cur x)
  | startsVoice {i : Instr} (hi : Instr.startsNote i) (x : Track) (key velocity : Nat) (dur : Int) :
      Effect s i (startVoice (s.setTrack s.cur x) key velocity dur)
  | endsTies (key k : Nat) (x : Track) :
      Effect s (.eot key) ((s.mapChannels fun ch => if ch.isTieOf s.cur k then ch.release else ch).setTrack s.cur x)
  | finishes (x : Track) :
      Effect s .fine ((s.setTrack s.cur x).mapChannels fun ch => if ch.owner = some s.cur then ch.release else ch)

variable {P : Profile} {s t : State P} {i : Instr}

theorem execute_effect (h : execute i s = .next t) : Effect s i t := by
  cases i with
  | note key velocity duration =>
    obtain ⟨e, -, rfl⟩ := noteOn_next h
    exact .startsVoice ⟨key, velocity, .inr ⟨duration, .inl rfl⟩⟩ _ _ _ _
  | notec key velocity duration =>
    obtain ⟨e, -, rfl⟩ := noteOn_next h
    exact .startsVoice ⟨key, velocity, .inr ⟨duration, .inr rfl⟩⟩ _ _ _ _
  | tie key velocity =>
    obtain ⟨e, -, rfl⟩ := noteOn_next h
    exact .startsVoice ⟨key, velocity, .inl rfl⟩ _ _ _ _
  | eot key =>
    obtain ⟨e, -, rfl⟩ := retire_next h
    exact .endsTies key _ _
  | tempo x =>
    obtain ⟨e, -, rfl⟩ := retire_next h
    exact .setsTempo x _
  | trackOpen u target =>
    obtain ⟨e, -, rfl⟩ := execTrackOpen_next h
    exact .opens u target _
  | jump target => cases h; exact .ownTrack _
  | call target =>
    obtain ⟨-, e, -, rfl⟩ := execCall_next h
    exact .ownTrack _
  | loop count =>
    obtain ⟨-, e, -, rfl⟩ := execLoop_next h
    exact .ownTrack _
  | loopend =>
    obtain ⟨body, rest, -, rfl⟩ | ⟨body, rest, e, -, -, rfl⟩ | ⟨body, r, rest, -, rfl⟩ := execLoopend_next h <;> exact .ownTrack _
  | ret =>
    obtain ⟨r, rest, -, rfl⟩ := execRet_next h
    exact .ownTrack _
  | fine => cases h; exact .finishes _
  | _ =>
    rw [execute] at h
    obtain ⟨e, -, rfl⟩ := retire_next h
    exact .ownTrack _

/-! ### O19 -/

theorem Effect.tempo_eq (h : Effect s i t) (hi : ∀ x, i ≠ .tempo x) : t.tempo = s.tempo := by
  cases h with
  | setsTempo tempo => exact absurd rfl (hi tempo)
  | startsVoice => rw [startVoice_frame]; rfl
  | ownTrack | opens | endsTies | finishes => rfl

/-- Settles O19: a command writes tracks, channels and the tempo, and the tempo only by `SetTempo`. -/
theorem commandFrame : Obligations.command_frame := by
  intro i s t h
  rw [exec_eq_execute] at h
  have hframe := execute_frame h
  exact ⟨fun a => by rw [hframe]; exact ⟨rfl, rfl⟩, hframe, (execute_effect h).tempo_eq⟩

/-! ### O20 -/

/-- Of the other tracks a command changes at most the one it opens (R247). -/
theorem Effect.otherTrack (h : Effect s i t) {u : TrackId} (hu : u ≠ s.cur) :
    t.tracks[u] = s.tracks[u] ∨ ∃ target, i = .trackOpen u target ∧ t.tracks[u] = s.tracks[u].openAt target := by
  have own (r : State P) (x : Track) : (r.setTrack s.cur x).tracks[u] = r.tracks[u] := by
    rw [State.setTrack_at, if_neg hu.symm]
  cases h with
  | ownTrack x => exact .inl (own s x)
  | setsTempo tempo x => exact .inl (own _ x)
  | opens v target x =>
    rw [own, State.setTrack_at]
    split
    · next hv => subst hv; exact .inr ⟨target, rfl, rfl⟩
    · exact .inl rfl
  | startsVoice hi x => rw [startVoice_frame]; exact .inl (own s x)
  | endsTies key k x => exact .inl (own _ x)
  | finishes x => exact .inl (own s x)

/-- R247: an opened track is left alone, and one never opened starts anew at the target. -/
theorem Track.openAt_cases (x : Track) (target : Off24) :
    x.openAt target = x ∨
      (x.opened = false ∧ x.openAt target = { Track.reset none with opened := true, stopped := false, cursor := target.toNat }) := by
  unfold Track.openAt
  cases x.opened with
  | true => exact .inl rfl
  | false => exact .inr ⟨rfl, rfl⟩

theorem Channel.release_cases (ch : Channel) :
    ch.release = ch ∨ (ch.sounding = true ∧ ch.release = { ch with state := .releasing }) := by
  unfold Channel.release
  split
  · exact .inr ⟨‹_›, rfl⟩
  · exact .inl rfl

/-- A note-on writes one channel at most, and claims it for the executing track (R221, R452). -/
theorem startVoice_channels (s : State P) (key velocity : Nat) (dur : Int) :
    (startVoice s key velocity dur).channels = s.channels ∨
      ∃ c : P.Chan, (∀ d : P.Chan, d ≠ c → (startVoice s key velocity dur).channels[d] = s.channels[d]) ∧
        (startVoice s key velocity dur).channels[c].owner = some s.cur ∧
        (startVoice s key velocity dur).channels[c].state = .initializing := by
  obtain h | ⟨i, c, -, -, -, h⟩ := startVoice_cases s key velocity dur <;> rw [h]
  · exact .inl rfl
  · refine .inr ⟨c, fun d hd => ?_, ?_⟩
    · rw [State.setChannel_at, if_neg hd.symm]
    · rw [State.setChannel_at, if_pos rfl]; exact ⟨rfl, rfl⟩

/-- What a command can do to a channel: nothing, release one of its track's, or claim one for a note (R221, R223, R249). -/
theorem Effect.channel (h : Effect s i t) (c : P.Chan) :
    t.channels[c] = s.channels[c] ∨
      ((i = .fine ∨ ∃ k, i = .eot k) ∧ s.channels[c].owner = some s.cur ∧ s.channels[c].sounding = true ∧
        t.channels[c] = { s.channels[c] with state := .releasing }) ∨
      (Instr.startsNote i ∧ t.channels[c].owner = some s.cur ∧ t.channels[c].state = .initializing) := by
  cases h with
  | ownTrack | setsTempo | opens => exact .inl rfl
  | startsVoice hi x key velocity dur =>
    obtain hx | ⟨d, hother, hclaim⟩ := startVoice_channels (s.setTrack s.cur x) key velocity dur
    · rw [hx]; exact .inl rfl
    · by_cases hc : c = d
      · subst hc; exact .inr (.inr ⟨hi, hclaim⟩)
      · exact .inl (hother c hc)
  | endsTies key k x =>
    rw [State.setTrack_channels, State.mapChannels_at]
    split
    · next htie =>
      have howner : s.channels[c].owner = some s.cur := by
        simp only [Channel.isTieOf, Bool.and_eq_true, decide_eq_true_eq] at htie
        obtain ⟨⟨⟨howner, -⟩, -⟩, -⟩ := htie
        exact howner
      exact s.channels[c].release_cases.imp_right fun ⟨hs, hr⟩ => .inl ⟨.inr ⟨key, rfl⟩, howner, hs, hr⟩
    · exact .inl rfl
  | finishes x =>
    rw [State.mapChannels_at]
    split
    · next howner => exact s.channels[c].release_cases.imp_right fun ⟨hs, hr⟩ => .inl ⟨.inl rfl, howner, hs, hr⟩
    · exact .inl rfl

/-- A note-on changes one channel at most. -/
theorem Effect.note_changes_one (h : Effect s i t) (hi : Instr.startsNote i) {c d : P.Chan} (hc : t.channels[c] ≠ s.channels[c])
    (hd : t.channels[d] ≠ s.channels[d]) : c = d := by
  cases h with
  | ownTrack | setsTempo | opens => exact absurd rfl hc
  | startsVoice _ x key velocity dur =>
    obtain hx | ⟨v, hother, -⟩ := startVoice_channels (s.setTrack s.cur x) key velocity dur
    · rw [hx] at hc; exact absurd rfl hc
    · have changed {b : P.Chan} (hb : (startVoice (s.setTrack s.cur x) key velocity dur).channels[b] ≠ s.channels[b]) : b = v :=
        by_contra fun hne => hb (hother b hne)
      exact (changed hc).trans (changed hd).symm
  | endsTies key => obtain ⟨_, _, h | ⟨_, h | h⟩⟩ := hi <;> cases h
  | finishes => obtain ⟨_, _, h | ⟨_, h | h⟩⟩ := hi <;> cases h

/-- Settles O20: of its effects only an opening reaches another track, and only a release or a note-on a channel. -/
theorem commandTrackAndChannelFrame : Obligations.command_track_and_channel_frame := by
  intro i s t h
  have heffect : Effect s i t := execute_effect (exec_eq_execute i s ▸ h)
  refine ⟨fun u hu => ?_, heffect.channel, fun hi c d => heffect.note_changes_one hi⟩
  obtain hx | ⟨target, hi, hx⟩ := heffect.otherTrack hu
  · exact .inl hx
  · exact (s.tracks[u].openAt_cases target).imp hx.trans fun ⟨hclosed, hopen⟩ => ⟨target, hi, hclosed, hx.trans hopen⟩

end Sys2Proof.Machine

end

/-! ## Operand fields and variable-length quantities (20_memory.md R107, 30_encoding.md R132, R133) -/

section

namespace Sys2Proof

/-! ### Fixed-width fields (R107, R132) -/

theorem leHalf_toNat (b0 b1 : Byte) : (leHalf b0 b1).toNat = b0.toNat + 256 * b1.toNat := by
  have h0 := b0.isLt
  have h1 := b1.isLt
  simp only [leHalf, BitVec.toNat_ofNat]
  omega

theorem leOff_toNat (b0 b1 b2 : Byte) : (leOff b0 b1 b2).toNat = b0.toNat + 256 * b1.toNat + 65536 * b2.toNat := by
  have h0 := b0.isLt
  have h1 := b1.isLt
  have h2 := b2.isLt
  simp only [leOff, BitVec.toNat_ofNat]
  omega

theorem byte_toInt (b : Byte) : b.toInt = if b.toNat < 128 then (b.toNat : Int) else (b.toNat : Int) - 256 := by
  rw [BitVec.toInt_eq_toNat_cond]
  split <;> split <;> omega

theorem half_toInt (x : Half) : x.toInt = if x.toNat < 32768 then (x.toNat : Int) else (x.toNat : Int) - 65536 := by
  rw [BitVec.toInt_eq_toNat_cond]
  split <;> split <;> omega

/-! ### A signed byte for an s16 operand (R132; log 25) -/

/-- The operand of a variable operation is its signed byte, sign-extended. -/
theorem decodeWith_varSet_signedByte {D : DecodeProfile} {op : Byte} (v x : Byte) (rest : List Byte) (hop : 128 ≤ op.toNat)
    (hstrict : D.strictVarops = false) (hmap : D.ctrlMap op = some ⟨.varSet, [.u8, .s8]⟩) :
    decodeWith D (op :: v :: x :: rest) = .ok (.varSet v (x.signExtend 16), 3) := by
  have hcontrol : decodeControl D op (v :: x :: rest) = .ok (.varSet v (x.signExtend 16), rest) := by
    rw [decodeControl_entry hmap rfl]
    simp only [readFormat_cons, readFields_cons, readFields_nil, readField_u8, readField_s8, CmdKind.firstOk, if_true, CmdKind.build,
      build2, ofInt_unsigned, ofInt_signed, accept, hstrict, Bool.false_and]
    rfl
  simp only [decodeWith, decodeAt, if_neg (Nat.not_lt.2 hop), hcontrol, List.length_cons]
  congr 2
  omega

/-! ### Variable-length quantities (R133) -/

/-- The bytes of continuation groups. -/
def continued (groups : List Nat) : List Byte := groups.map fun g => BitVec.ofNat 8 (128 + g)

/-- The loop takes continuation groups in, one after another. -/
theorem vlqLoop_continued {groups : List Nat} (h : ∀ g ∈ groups, g < 128) (n v : Nat) (bs : List Byte) :
    vlqLoop (groups.length + n) v (continued groups ++ bs) = vlqLoop n (groups.foldl (fun v g => v * 128 + g) v) bs := by
  induction groups generalizing v with
  | nil => rw [List.length_nil, Nat.zero_add]; rfl
  | cons g groups ih =>
    obtain ⟨hg, hgroups⟩ := List.forall_mem_cons.1 h
    rw [List.length_cons, Nat.add_right_comm]
    exact (vlqLoop_more _ _ g hg _).trans (ih hgroups _)

theorem groupsValue_append (groups : List Nat) (last : Nat) : groupsValue (groups ++ [last]) = groupsValue groups * 128 + last :=
  List.foldl_append

section

variable {groups : List Nat} (hgroups : ∀ g ∈ groups, g < 128)
include hgroups

theorem vlqLoop_value {last : Nat} (hlast : last < 128) (hlen : groups.length ≤ 3) (rest : List Byte) :
    vlqLoop 4 0 (continued groups ++ BitVec.ofNat 8 last :: rest) = .ok (groupsValue (groups ++ [last]), rest) := by
  have hfour : 4 = groups.length + (3 - groups.length + 1) := by omega
  rw [hfour, vlqLoop_continued hgroups, vlqLoop_last _ _ _ hlast, groupsValue_append]
  rfl

theorem vlqLoop_cut (hlen : groups.length ≤ 3) : vlqLoop 4 0 (continued groups) = .error .outOfBounds := by
  have hfour : 4 = groups.length + (3 - groups.length + 1) := by omega
  have h := vlqLoop_continued hgroups (3 - groups.length + 1) 0 []
  rw [List.append_nil] at h
  rw [hfour, h]
  rfl

theorem vlqLoop_overlong (hlen : groups.length = 4) (rest : List Byte) :
    vlqLoop 4 0 (continued groups ++ rest) = .error .badVarLen := by
  have h := vlqLoop_continued hgroups 0 0 rest
  rw [hlen] at h
  exact h

/-- Three continuation groups and a last one hold 28 bits. -/
theorem groupsValue_lt {last : Nat} (hlast : last < 128) (hlen : groups.length ≤ 3) : groupsValue (groups ++ [last]) < 2 ^ 28 := by
  obtain ⟨-, -, hlt⟩ := vlqLoop_ok (vlqLoop_value hgroups hlast hlen [])
  exact hlt

end

/-- Settles O4: each field by its bytes, and a variable-length quantity group by group. -/
theorem operandFieldsRead : Obligations.operand_fields_read := by
  refine ⟨fun b0 b1 b2 rest k => ?_, fun D op v x rest hop hstrict hmap => ?_, fun groups last rest hgroups hlast => ?_⟩
  · refine ⟨rfl, ?_, ?_, ?_, ?_, fun f => by cases f <;> rfl, ?_, rfl⟩
    · rw [readField_s8, byte_toInt]
    · show k (leHalf b0 b1).toNat rest = _
      rw [leHalf_toNat]
    · show k (leHalf b0 b1).toInt rest = _
      rw [half_toInt, leHalf_toNat]
    · show k (leOff b0 b1 b2).toNat rest = _
      rw [leOff_toNat]
    · rintro f (rfl | rfl | rfl) <;> rfl
  · exact ⟨_, decodeWith_varSet_signedByte v x rest hop hstrict hmap, BitVec.toInt_signExtend_of_le (by decide)⟩
  · exact ⟨fun hlen => ⟨vlqLoop_value hgroups hlast hlen rest, groupsValue_lt hgroups hlast hlen, vlqLoop_cut hgroups hlen⟩,
      fun hlen => vlqLoop_overlong hgroups hlen rest⟩

end Sys2Proof

end

/-! ## Reading back what the encoder writes (30_encoding.md R130 to R140) -/

section

namespace Sys2Proof

/-! ### Fields and formats (R132, R133) -/

/-- The bytes `bs` spell the value `v` of a field: whatever follows them, the field reads `v` and leaves what follows. -/
def Field.Spells (f : Field) (v : Int) (bs : List Byte) : Prop :=
  ∀ (α : Type) (r : List Byte) (k : Int → List Byte → DecodeResult α), readField f (bs ++ r) k = k v r

theorem Field.Spells.u8 (x : Byte) : Field.u8.Spells x.toNat [x] := fun _ r k => readField_u8 r k x

theorem Field.Spells.s8 (x : Byte) : Field.s8.Spells x.toInt [x] := fun _ r k => readField_s8 r k x

theorem Field.Spells.u16 (x : Half) : Field.u16.Spells x.toNat (halfBytes x) := fun _ r k => readField_u16 r k x

theorem Field.Spells.s16 (x : Half) : Field.s16.Spells x.toInt (halfBytes x) := fun _ r k => readField_s16 r k x

theorem Field.Spells.u24 (x : Off24) : Field.u24.Spells x.toNat (offBytes x) := fun _ r k => readField_u24 r k x

theorem Field.Spells.vlq {n : Nat} (h : n < 268435456) : Field.vlq.Spells n (encodeVlq n) := fun _ r k => readField_vlq r k h

/-- A variable-length quantity whose reading goes past `p` cannot be read from `p` alone. -/
theorem vlqLoop_cutShort {groups v m : Nat} {p q r : List Byte} (h : vlqLoop groups v (p ++ q) = .ok (m, r)) (hr : r.length < q.length) :
    vlqLoop groups v p = .error .outOfBounds := by
  induction groups generalizing v p with
  | zero => cases h
  | succ g ih =>
    cases p with
    | nil => rfl
    | cons b p =>
      simp only [List.cons_append, vlqLoop, readByte_cons] at h ⊢
      split at h
      · cases h
        simp only [List.length_append] at hr
        omega
      · next hb =>
        rw [if_neg hb]
        exact ih h

/-- A field whose reading goes past `p` cannot be read from `p` alone (R132, R183). -/
theorem readField_cutShort {α : Type} {f : Field} {v : Int} {p q r : List Byte} (h : readField f (p ++ q) (fun v r => .ok (v, r)) = .ok (v, r))
    (hr : r.length < q.length) (k : Int → List Byte → DecodeResult α) : readField f p k = .error .outOfBounds := by
  have hkeep : ∀ s : List Byte, r ≠ s ++ q := by
    rintro s rfl
    simp only [List.length_append] at hr
    omega
  cases f with
  | vlq =>
    simp only [readField, readVlq] at h ⊢
    split at h
    · cases h
    · next n r' hn =>
      cases h
      rw [vlqLoop_cutShort hn hr]
  | u8 | s8 =>
    rcases p with _ | ⟨b, p⟩
    · rfl
    · cases h
      exact absurd rfl (hkeep p)
  | u16 | s16 =>
    rcases p with _ | ⟨b0, _ | ⟨b1, p⟩⟩
    · rfl
    · rfl
    · cases h
      exact absurd rfl (hkeep p)
  | u24 =>
    rcases p with _ | ⟨b0, _ | ⟨b1, _ | ⟨b2, p⟩⟩⟩
    · rfl
    · rfl
    · rfl
    · cases h
      exact absurd rfl (hkeep p)

theorem Field.Spells.cut {α : Type} {f : Field} {v : Int} {bs : List Byte} (h : f.Spells v bs) {n : Nat} (hn : n < bs.length)
    (k : Int → List Byte → DecodeResult α) : readField f (bs.take n) k = .error .outOfBounds := by
  have hread := h _ [] fun v r => .ok (v, r)
  rw [List.append_nil, ← List.take_append_drop n bs] at hread
  exact readField_cutShort hread (by rw [List.length_drop]; exact Nat.sub_pos_of_lt hn) k

/-- A cut through a field's spelling and more bytes falls in the field or after it. -/
theorem Field.Spells.cut_append {α : Type} {f : Field} {v : Int} {bs bs' : List Byte} (h : f.Spells v bs) {n : Nat}
    {k : Int → List Byte → DecodeResult α} (hk : bs.length ≤ n → k v (bs'.take (n - bs.length)) = .error .outOfBounds) :
    readField f ((bs ++ bs').take n) k = .error .outOfBounds := by
  rw [List.take_append]
  obtain hlt | hge := Nat.lt_or_ge n bs.length
  · rw [Nat.sub_eq_zero_of_le hlt.le, List.take_zero, List.append_nil, h.cut hlt]
  · rw [List.take_of_length_le hge, h, hk hge]

/-- Bytes that spell the values of a format's fields, one field after another (R136). -/
inductive FormatSpells : List Field → List Int → List Byte → Prop
  | nil : FormatSpells [] [] []
  | cons {f : Field} {fs : List Field} {v : Int} {vs : List Int} {bs bs' : List Byte} (hf : f.Spells v bs) (hfs : FormatSpells fs vs bs') :
      FormatSpells (f :: fs) (v :: vs) (bs ++ bs')

theorem FormatSpells.last {f : Field} {v : Int} {bs : List Byte} (h : f.Spells v bs) : FormatSpells [f] [v] bs := by
  simpa only [List.append_nil] using FormatSpells.cons h .nil

section

variable {α : Type} {fs : List Field} {vs : List Int} {bs : List Byte} {n : Nat}

theorem FormatSpells.readFields (h : FormatSpells fs vs bs) (r : List Byte) (k : List Int → List Byte → DecodeResult α) :
    readFields fs (bs ++ r) k = k vs r := by
  induction h generalizing k with
  | nil => rfl
  | cons hf _ ih => rw [readFields_cons, List.append_assoc, hf, ih]

theorem FormatSpells.readFields_cut (h : FormatSpells fs vs bs) (hn : n < bs.length) (k : List Int → List Byte → DecodeResult α) :
    Sys2Proof.readFields fs (bs.take n) k = .error .outOfBounds := by
  induction h generalizing n k with
  | nil => cases hn
  | @cons f fs v vs bs bs' hf _ ih =>
    rw [List.length_append] at hn
    rw [readFields_cons]
    exact hf.cut_append fun hge => ih (by omega) _

variable {ok : Int → Bool} (hok : ∀ v rest, vs = v :: rest → ok v = true)
include hok

theorem FormatSpells.readFormat (h : FormatSpells fs vs bs) (r : List Byte) (k : List Int → List Byte → DecodeResult α) :
    readFormat ok fs (bs ++ r) k = k vs r := by
  cases h with
  | nil => rfl
  | cons hf hfs => rw [readFormat_cons, List.append_assoc, hf, if_pos (hok _ _ rfl), hfs.readFields]

/-- The checks run in byte order, so a spelling that is cut short passes the range check of R137 or ends before it. -/
theorem FormatSpells.readFormat_cut (h : FormatSpells fs vs bs) (hn : n < bs.length) (k : List Int → List Byte → DecodeResult α) :
    Sys2Proof.readFormat ok fs (bs.take n) k = .error .outOfBounds := by
  cases h with
  | nil => cases hn
  | @cons f fs v vs bs bs' hf hfs =>
    rw [List.length_append] at hn
    rw [readFormat_cons]
    refine hf.cut_append fun hge => ?_
    rw [if_pos (hok _ _ rfl)]
    exact hfs.readFields_cut (by omega) _

end

/-! ### The spelling of each control command (R131, R140) -/

/-- The command `i` is spelled by the map's entry `e` of its control byte and the operand values `vs`. -/
structure SpelledBy (i : Instr) (e : CtrlEntry) (vs : List Int) : Prop where
  entry : referenceCtrlMap (opcodeOf i) = some e
  bytes : FormatSpells e.format vs (operandBytes i)
  first : ∀ v rest, vs = v :: rest → e.kind.firstOk Config.numTracks v = true
  build : e.kind.build vs = some i

/-- Only notes begin with a byte below 0x80, and their opcode byte is the key (R134). -/
theorem note_or_control {i : Instr} (h : i.WellFormed) :
    (∃ key velocity duration, i = .note key velocity duration ∧ key < 128 ∧ duration < 268435456) ∨ 128 ≤ (opcodeOf i).toNat := by
  cases i with
  | note key velocity duration =>
    obtain ⟨hk, hd⟩ := Bool.and_eq_true_iff.1 h
    exact .inl ⟨key, velocity, duration, rfl, of_decide_eq_true hk, of_decide_eq_true hd⟩
  | _ => exact .inr (Nat.le_of_ble_eq_true rfl)

theorem keyByte_toNat {key : Nat} (h : key < 128) : (BitVec.ofNat 8 key).toNat = key := by
  rw [BitVec.toNat_ofNat]
  omega

/-- A key's byte spells it (R137). -/
theorem Field.Spells.key {key : Nat} (h : key < 128) : Field.u8.Spells key [BitVec.ofNat 8 key] := by
  simpa only [keyByte_toNat h] using Field.Spells.u8 (BitVec.ofNat 8 key)

theorem Field.Spells.track (t : TrackId) : Field.u8.Spells t.val [BitVec.ofNat 8 t.val] := by
  have h := t.isLt
  exact Field.Spells.key (h.trans (by decide))

/-- The kinds whose first operand is a key (R137). -/
theorem firstOk_key {kind : CmdKind} (hkind : kind = .tie ∨ kind = .eot ∨ kind = .notec) (tracks : Nat) (v : Int) :
    kind.firstOk tracks v = decide (0 ≤ v ∧ v < 128) := by
  rcases hkind with rfl | rfl | rfl <;> rfl

theorem firstOk_key_of_lt {kind : CmdKind} (hkind : kind = .tie ∨ kind = .eot ∨ kind = .notec) {key : Nat} (h : key < 128) (tracks : Nat) :
    kind.firstOk tracks key = true := by
  rw [firstOk_key hkind, decide_eq_true_eq]
  omega

/-- Every well-formed command of a control byte is spelled by the reference map. -/
theorem exists_spelledBy {i : Instr} (h : i.WellFormed) (hop : 128 ≤ (opcodeOf i).toNat) : ∃ e vs, SpelledBy i e vs := by
  cases i with
  | note key velocity duration =>
    obtain ⟨hk, -⟩ := Bool.and_eq_true_iff.1 h
    have hkey := of_decide_eq_true hk
    rw [opcodeOf, keyByte_toNat hkey] at hop
    omega
  | rest n | voice n =>
    have hn : n < 268435456 := of_decide_eq_true h
    refine ⟨_, [(n : Int)], rfl, .last (.vlq hn), fun _ _ _ => rfl, ?_⟩
    simp only [CmdKind.build, build1, quantity_of_lt hn]
  | trackOpen t x =>
    have ht := t.isLt
    refine ⟨_, [(t.val : Int), x.toNat], rfl, .cons (.track t) (.last (.u24 x)), ?_, ?_⟩
    · intro v rest hv
      cases hv
      exact decide_eq_true ⟨Int.natCast_nonneg _, Int.ofNat_lt.2 ht⟩
    · simp only [CmdKind.build, build2, ofInt_unsigned, Int.toNat_natCast, Fin.ofNat_val_eq_self]
  | jump x | call x =>
    exact ⟨_, [(x.toNat : Int)], rfl, .last (.u24 x), fun _ _ _ => rfl, by simp only [CmdKind.build, build1, ofInt_unsigned]⟩
  | varSet v x | varAdd v x | varSub v x | varMul v x | varDiv v x | varShift v x | varRand v x | varReserved v x | varEq v x
  | varGe v x | varGt v x | varLe v x | varLt v x | varNe v x =>
    exact ⟨_, [(v.toNat : Int), x.toInt], rfl, .cons (.u8 v) (.last (.s16 x)), fun _ _ _ => rfl,
      by simp only [CmdKind.build, build2, ofInt_unsigned, BitVec.ofInt_toInt]⟩
  | transpose x | bend x =>
    exact ⟨_, [x.toInt], rfl, .last (.s8 x), fun _ _ _ => rfl, by simp only [CmdKind.build, build1, BitVec.ofInt_toInt]⟩
  | pan x | vol x | bendrange x | prio x | lfodepth x | lfospeed x | lfotarget x | lforange x | attack x | decay x | sustain x
  | release x | loop x | expr x =>
    exact ⟨_, [(x.toNat : Int)], rfl, .last (.u8 x), fun _ _ _ => rfl, by simp only [CmdKind.build, build1, ofInt_unsigned]⟩
  | lfodelay x | tempo x =>
    exact ⟨_, [(x.toNat : Int)], rfl, .last (.u16 x), fun _ _ _ => rfl, by simp only [CmdKind.build, build1, ofInt_unsigned]⟩
  | tie key x =>
    have hk : key < 128 := of_decide_eq_true h
    refine ⟨_, [(key : Int), x.toNat], rfl, .cons (.key hk) (.last (.u8 x)), ?_, ?_⟩
    · intro v rest hv
      cases hv
      exact firstOk_key_of_lt (.inl rfl) hk _
    · simp only [CmdKind.build, build2, ofInt_unsigned, Int.toNat_natCast]
  | eot key =>
    have hk : key < 128 := of_decide_eq_true h
    refine ⟨_, [(key : Int)], rfl, .last (.key hk), ?_, ?_⟩
    · intro v rest hv
      cases hv
      exact firstOk_key_of_lt (.inr (.inl rfl)) hk _
    · simp only [CmdKind.build, build1, Int.toNat_natCast]
  | notec key x n =>
    obtain ⟨hk, hn⟩ := Bool.and_eq_true_iff.1 h
    have hkey : key < 128 := of_decide_eq_true hk
    have hquantity : n < 268435456 := of_decide_eq_true hn
    refine ⟨_, [(key : Int), x.toNat, n], rfl, .cons (.key hkey) (.cons (.u8 x) (.last (.vlq hquantity))), ?_, ?_⟩
    · intro v rest hv
      cases hv
      exact firstOk_key_of_lt (.inr (.inr rfl)) hkey _
    · simp only [CmdKind.build, build3, ofInt_unsigned, Int.toNat_natCast, quantity_of_lt hquantity]
  | loopend | ret | fine => exact ⟨_, [], rfl, .nil, nofun, rfl⟩

end Sys2Proof

end

/-! ## One position of the decoder (30_encoding.md R136 to R140, 40_sequence_decoder.md R182, R183) -/

section

namespace Sys2Proof

/-! ### Control commands (R136, R138, R139) -/

theorem isBareControl_entry {D : DecodeProfile} {op : Byte} {e : CtrlEntry} (h : D.ctrlMap op = some e) :
    isBareControl D op = e.format.isEmpty := by
  simp only [isBareControl, h]

/-- Every field has a byte, so only the empty format is spelled by no bytes. -/
theorem FormatSpells.isEmpty {fs : List Field} {vs : List Int} {bs : List Byte} (h : FormatSpells fs vs bs) : fs.isEmpty = bs.isEmpty := by
  cases h with
  | nil => rfl
  | @cons f fs v vs bs bs' hf hfs =>
    cases bs with
    | nil =>
      have hread := hf _ [] fun v r => .ok (v, r)
      cases f <;> cases hread
    | cons b bs => rfl

/-- The reference profile with either reading of the low bytes (R134, R135). -/
@[reducible] def referenceIn (mode : LowByteMode) : DecodeProfile := { DecodeProfile.reference with lowByteMode := mode }

section

variable {i : Instr} {e : CtrlEntry} {vs : List Int} (mode : LowByteMode)

theorem SpelledBy.decodeControl (h : SpelledBy i e vs) (rest : List Byte) :
    decodeControl (referenceIn mode) (opcodeOf i) (operandBytes i ++ rest) = .ok (i, rest) := by
  rw [decodeControl_entry (D := referenceIn mode) h.entry (referenceCtrlMap_fits h.entry), h.bytes.readFormat h.first, h.build]
  rfl

theorem SpelledBy.decodeControl_cut (h : SpelledBy i e vs) {n : Nat} (hn : n < (operandBytes i).length) :
    Sys2Proof.decodeControl (referenceIn mode) (opcodeOf i) ((operandBytes i).take n) = .error .outOfBounds := by
  rw [decodeControl_entry (D := referenceIn mode) h.entry (referenceCtrlMap_fits h.entry), h.bytes.readFormat_cut h.first hn]

/-- A command has no operand bytes just if its control byte has no operand field. -/
theorem SpelledBy.isBareControl (h : SpelledBy i e vs) : isBareControl (referenceIn mode) (opcodeOf i) = (operandBytes i).isEmpty := by
  rw [isBareControl_entry (D := referenceIn mode) h.entry, h.bytes.isEmpty]

end

/-- The three control commands without operands (R139). -/
theorem operandBytes_eq_nil_iff (i : Instr) : operandBytes i = [] ↔ i = .loopend ∨ i = .ret ∨ i = .fine := by
  cases i with
  | rest n | voice n =>
    obtain ⟨hpos, -⟩ := encodeVlq_length n
    simpa only [operandBytes, reduceCtorEq, or_false, iff_false] using List.ne_nil_of_length_pos hpos
  | _ => simp [operandBytes, halfBytes, offBytes]

/-- With no byte left, a control byte that has an entry decodes or is refused for its operands: it is not unknown. -/
theorem decodeControl_nil_ne_unknown {D : DecodeProfile} {op : Byte} {e : CtrlEntry} (h : D.ctrlMap op = some e) (hf : e.fits = true) :
    decodeControl D op [] ≠ .error .unknownOpcode := by
  rw [decodeControl_entry h hf]
  obtain ⟨kind, format⟩ := e
  cases format with
  | nil =>
    obtain ⟨i, hi⟩ := Option.isSome_iff_exists.1 hf
    simp only [List.map_nil] at hi
    simp only [readFormat_nil, hi, accept]
    split <;> nofun
  | cons f fs =>
    rw [readFormat_cons]
    cases f <;> nofun

/-! ### One position (R182) -/

/-- What `DecodeAt` can answer at a byte `b` that `r` follows: a note, a running-status command or a control command. -/
inductive DecodedAt (D : DecodeProfile) (rs : Option Byte) (b : Byte) (r : List Byte) : Decoded → Prop
  | note {i : Instr} {r' : List Byte} (hb : b.toNat < 128) (hmode : D.lowByteMode = .note) (h : decodeNote b r = .ok (i, r')) :
      DecodedAt D rs b r ⟨i, (b :: r).length - r'.length, rs, none⟩
  | running {c : Byte} {i : Instr} {r' : List Byte} (hb : b.toNat < 128) (hmode : D.lowByteMode = .runningStatus) (hrs : rs = some c)
      (hbare : isBareControl D c = false) (h : decodeControl D c (b :: r) = .ok (i, r')) :
      DecodedAt D rs b r ⟨i, (b :: r).length - r'.length, rs, some c⟩
  | control {i : Instr} {r' : List Byte} (hb : 128 ≤ b.toNat) (h : decodeControl D b r = .ok (i, r')) :
      DecodedAt D rs b r ⟨i, (b :: r).length - r'.length, if isBareControl D b then rs else some b, none⟩

theorem decodeAt_iff {D : DecodeProfile} {rs : Option Byte} {b : Byte} {r : List Byte} {d : Decoded} :
    decodeAt D rs (b :: r) = .ok d ↔ DecodedAt D rs b r d := by
  constructor
  · intro h
    unfold decodeAt at h
    dsimp only at h
    split at h
    · next hb =>
      split at h
      · next hmode =>
        split at h
        · cases h
        · next hn => cases h; exact .note hb hmode hn
      · next hmode =>
        split at h
        · cases h
        · next c =>
          split at h
          · cases h
          · next hbare =>
            split at h
            · cases h
            · next hc => cases h; exact .running hb hmode rfl (Bool.eq_false_iff.2 hbare) hc
    · next hb =>
      split at h
      · cases h
      · next hc => cases h; exact .control (Nat.not_lt.1 hb) hc
  · intro h
    cases h with
    | note hb hmode h => simp only [decodeAt, if_pos hb, hmode, h]
    | running hb hmode hrs hbare h => simp only [decodeAt, if_pos hb, hmode, hrs, hbare, Bool.false_eq_true, if_false, h]
    | control hb h => simp only [decodeAt, if_neg (Nat.not_lt.2 hb), h]

theorem decodeAt_control_error {D : DecodeProfile} {b : Byte} {r : List Byte} {x : LoadErrorKind} (rs : Option Byte) (hb : 128 ≤ b.toNat)
    (h : decodeControl D b r = .error x) : decodeAt D rs (b :: r) = .error x := by
  simp only [decodeAt, if_neg (Nat.not_lt.2 hb), h]

theorem decodeAt_note_error {D : DecodeProfile} {b : Byte} {r : List Byte} {x : LoadErrorKind} (rs : Option Byte) (hb : b.toNat < 128)
    (hmode : D.lowByteMode = .note) (h : decodeNote b r = .error x) : decodeAt D rs (b :: r) = .error x := by
  simp only [decodeAt, if_pos hb, hmode, h]

theorem decode_error {bs : List Byte} {x : LoadErrorKind} (h : decodeAt DecodeProfile.reference none bs = .error x) :
    decode bs = .error x := by
  simp only [decode, decodeWith, h]

theorem decode_control_error {op : Byte} {r : List Byte} {x : LoadErrorKind} (hop : 128 ≤ op.toNat)
    (h : decodeControl DecodeProfile.reference op r = .error x) : decode (op :: r) = .error x :=
  decode_error (decodeAt_control_error none hop h)

/-! ### O1 -/

theorem opcodeOf_note_lt {key : Nat} (hkey : key < 128) (velocity : Byte) (duration : Nat) :
    (opcodeOf (.note key velocity duration)).toNat < 128 := by rwa [opcodeOf, keyByte_toNat hkey]

theorem decodeNote_operandBytes {key : Nat} (hkey : key < 128) (velocity : Byte) {duration : Nat} (hduration : duration < 268435456)
    (rest : List Byte) :
    decodeNote (opcodeOf (.note key velocity duration)) (operandBytes (.note key velocity duration) ++ rest) =
      .ok (.note key velocity duration, rest) := by
  show readVlq (encodeVlq duration ++ rest) _ = _
  rw [readVlq_encodeVlq hduration, opcodeOf, keyByte_toNat hkey]

theorem decodeNote_cut (key : Nat) (velocity : Byte) {duration : Nat} (hduration : duration < 268435456) {n : Nat}
    (hn : n < (operandBytes (.note key velocity duration)).length) :
    decodeNote (opcodeOf (.note key velocity duration)) ((operandBytes (.note key velocity duration)).take n) =
      .error .outOfBounds := by
  cases n with
  | zero => rfl
  | succ n =>
    show readField .vlq ((encodeVlq duration).take n) (fun d r => .ok (Instr.note _ velocity d.toNat, r)) = _
    exact (Field.Spells.vlq hduration).cut (Nat.lt_of_succ_lt_succ hn) _

/-- The length of a command is what its bytes add to what follows. -/
theorem encode_append_length (i : Instr) (rest : List Byte) :
    (opcodeOf i :: (operandBytes i ++ rest)).length - rest.length = (encode i).length := by
  simp only [encode, List.length_cons, List.length_append]
  omega

/-- A control command is read back in either mode, whatever the running status (R136, R182). -/
theorem decodeAt_encode_control (mode : LowByteMode) (rs : Option Byte) {i : Instr} (rest : List Byte) (hi : i.WellFormed)
    (hop : 128 ≤ (opcodeOf i).toNat) :
    decodeAt (referenceIn mode) rs (encode i ++ rest) =
      .ok ⟨i, (encode i).length, if operandBytes i = [] then rs else some (opcodeOf i), none⟩ := by
  obtain ⟨e, vs, h⟩ := exists_spelledBy hi hop
  have hd := decodeAt_iff.2 (.control (rs := rs) hop (h.decodeControl mode rest))
  simp only [h.isBareControl, List.isEmpty_iff, encode_append_length] at hd
  exact hd

/-- Settles O1: a note by its own format, every other command by its entry of the reference map. -/
theorem decodeEncode : Obligations.decode_encode := by
  intro i rest hi
  obtain ⟨key, velocity, duration, rfl, hkey, hduration⟩ | hop := note_or_control hi
  · have hlow := opcodeOf_note_lt hkey velocity duration
    have hd := decodeAt_iff.2 (.note (rs := none) (D := .reference) hlow rfl (decodeNote_operandBytes hkey velocity hduration rest))
    rw [encode_append_length] at hd
    exact Machine.decodeWith_of_decodeAt rfl hd
  · exact Machine.decodeWith_of_decodeAt rfl (decodeAt_encode_control .note none rest hi hop)

/-! ### O3 -/

theorem decode_encode_cut {i : Instr} (hi : i.WellFormed) {n : Nat} (hn : n < (encode i).length) :
    decode ((encode i).take n) = .error .outOfBounds := by
  cases n with
  | zero => rfl
  | succ n =>
    have hn' : n < (operandBytes i).length := Nat.lt_of_succ_lt_succ hn
    rw [encode, List.take_succ_cons]
    obtain ⟨key, velocity, duration, rfl, hkey, hduration⟩ | hop := note_or_control hi
    · have hlow := opcodeOf_note_lt hkey velocity duration
      exact decode_error (decodeAt_note_error none hlow rfl (decodeNote_cut key velocity hduration hn'))
    · obtain ⟨e, vs, h⟩ := exists_spelledBy hi hop
      exact decode_control_error hop (h.decodeControl_cut .note hn')

/-- The range of a first operand is checked before any later field is read (R137, R498). -/
theorem decodeControl_badOperand {D : DecodeProfile} {op : Byte} {e : CtrlEntry} {fs : List Field} (hmap : D.ctrlMap op = some e)
    (hf : e.fits = true) (hformat : e.format = .u8 :: fs) {x : Byte} (hx : e.kind.firstOk D.numTracks x.toNat = false) (rest : List Byte) :
    decodeControl D op (x :: rest) = .error .badOperand := by
  rw [decodeControl_entry hmap hf, hformat, readFormat_cons, readField_u8, hx]
  rfl

theorem decode_badKey {op : Byte} (hop : op = 0xF0#8 ∨ op = 0xF1#8 ∨ op = 0xF2#8) {key : Byte} (hkey : 128 ≤ key.toNat) (rest : List Byte) :
    decode (op :: key :: rest) = .error .badOperand := by
  have hbad : decide (0 ≤ (key.toNat : Int) ∧ (key.toNat : Int) < 128) = false := by
    rw [decide_eq_false_iff_not]
    omega
  rcases hop with rfl | rfl | rfl
  · exact decode_control_error (by decide)
      (decodeControl_badOperand (e := ⟨.tie, [.u8, .u8]⟩) rfl rfl rfl ((firstOk_key (.inl rfl) _ _).trans hbad) rest)
  · exact decode_control_error (by decide)
      (decodeControl_badOperand (e := ⟨.eot, [.u8]⟩) rfl rfl rfl ((firstOk_key (.inr (.inl rfl)) _ _).trans hbad) rest)
  · exact decode_control_error (by decide)
      (decodeControl_badOperand (e := ⟨.notec, [.u8, .u8, .vlq]⟩) rfl rfl rfl ((firstOk_key (.inr (.inr rfl)) _ _).trans hbad) rest)

theorem decode_badTrack {track : Byte} (htrack : 16 ≤ track.toNat) (rest : List Byte) :
    decode (0x93#8 :: track :: rest) = .error .badOperand := by
  refine decode_control_error (by decide) (decodeControl_badOperand (e := ⟨.trackOpen, [.u8, .u24]⟩) rfl rfl rfl ?_ rest)
  rw [CmdKind.firstOk, decide_eq_false_iff_not]
  exact fun h => absurd (Int.ofNat_lt.1 h.2) (Nat.not_lt.2 htrack)

/-- Settles O3: a spelling cut short ends in a field that is cut short, and a first operand's range is checked as soon as it is read. -/
theorem decodeRefusesBadOperands : Obligations.decode_refuses_bad_operands :=
  ⟨fun _ _ hi hn => decode_encode_cut hi hn,
    fun _ rest hk => ⟨decode_badKey (.inl rfl) hk rest, decode_badKey (.inr (.inl rfl)) hk rest, decode_badKey (.inr (.inr rfl)) hk rest⟩,
    fun _ rest ht => decode_badTrack ht rest⟩

/-! ### O6 -/

/-- The reference map assigns nothing to exactly the bytes of R138. -/
theorem referenceCtrlMap_eq_none_iff {op : Byte} (hop : 128 ≤ op.toNat) : referenceCtrlMap op = none ↔ unassignedControl op.toNat := by
  have hlt := op.isLt
  unfold referenceCtrlMap unassignedControl
  split
  case h_44 => simp only [imp_false, true_iff] at *; omega
  all_goals simp only [reduceCtorEq, false_iff]; omega

/-- Settles O6: a byte without an entry is unknown, and the entry of any other asks for operand bytes or decodes. -/
theorem unassignedBytesUnknown : Obligations.unassigned_bytes_unknown := by
  intro op hop
  rw [← referenceCtrlMap_eq_none_iff hop]
  constructor
  · intro hnone rest
    exact decode_control_error hop (decodeControl_unknown (D := .reference) (fun e he => by cases hnone.symm.trans he) rest)
  · intro hunknown
    by_contra hsome
    obtain ⟨e, he⟩ := Option.ne_none_iff_exists'.1 hsome
    have hne := decodeControl_nil_ne_unknown (D := .reference) he (referenceCtrlMap_fits he)
    cases hc : decodeControl .reference op [] with
    | error x =>
      have herror := (hunknown []).symm.trans (decode_control_error hop hc)
      cases herror
      exact hne hc
    | ok p =>
      have hok := Machine.decodeWith_of_decodeAt rfl (decodeAt_iff.2 (.control (rs := none) hop hc))
      cases (hunknown []).symm.trans hok

end Sys2Proof

end

/-! ## Running status and the length of a command (30_encoding.md R130, R135, R139, R144) -/

section

namespace Sys2Proof

/-! ### O7 -/

/-- The operand bytes of a control command decode alone under its control byte (R135). -/
theorem decodeAt_operandBytes {i : Instr} {b : Byte} {tail : List Byte} (rest : List Byte) (hi : i.WellFormed)
    (hop : 128 ≤ (opcodeOf i).toNat) (hbytes : operandBytes i = b :: tail) (hb : b.toNat < 128) :
    decodeAt (referenceIn .runningStatus) (some (opcodeOf i)) (operandBytes i ++ rest) =
      .ok ⟨i, (operandBytes i).length, some (opcodeOf i), some (opcodeOf i)⟩ := by
  obtain ⟨e, vs, h⟩ := exists_spelledBy hi hop
  have hbare := h.isBareControl .runningStatus
  have hcontrol := h.decodeControl .runningStatus rest
  rw [hbytes] at hbare hcontrol ⊢
  have hlen : (b :: tail).length = (b :: tail ++ rest).length - rest.length := by rw [List.length_append, Nat.add_sub_cancel]
  rw [hlen]
  exact decodeAt_iff.2 (.running hb rfl rfl hbare hcontrol)

theorem decodeAt_invalidRunningStatus {D : DecodeProfile} {rs : Option Byte} {b : Byte} (rest : List Byte) (hb : b.toNat < 128)
    (hmode : D.lowByteMode = .runningStatus) (hrs : ∀ c, rs = some c → isBareControl D c = true) :
    decodeAt D rs (b :: rest) = .error .invalidRunningStatus := by
  cases rs with
  | none => simp only [decodeAt, if_pos hb, hmode]
  | some c => simp only [decodeAt, if_pos hb, hmode, hrs c rfl, if_true]

theorem DecodedAt.running_status {D : DecodeProfile} {rs : Option Byte} {b : Byte} {r : List Byte} {d : Decoded} (h : DecodedAt D rs b r d) :
    (b.toNat < 128 → d.rsNext = rs ∧ d.viaRs = if D.lowByteMode = .runningStatus then rs else none) ∧
      ∀ e : CtrlEntry, 128 ≤ b.toNat → D.ctrlMap b = some e → d.rsNext = (if e.format = [] then rs else some b) ∧ d.viaRs = none := by
  cases h with
  | note hb hmode => exact ⟨fun _ => ⟨rfl, by rw [hmode]; rfl⟩, fun e hb' => by omega⟩
  | running hb hmode hrs => exact ⟨fun _ => ⟨rfl, by rw [if_pos hmode, hrs]⟩, fun e hb' => by omega⟩
  | control hb =>
    refine ⟨fun hb' => by omega, fun e _ he => ⟨?_, rfl⟩⟩
    simp only [isBareControl_entry he, List.isEmpty_iff]

/-- Settles O7: a control byte's format decides both what its operand bytes decode to and whether it becomes the running status. -/
theorem runningStatusRoundTrip : Obligations.running_status_round_trip := by
  refine ⟨fun i b tail rest hi hop hbytes hb => decodeAt_operandBytes rest hi hop hbytes hb, fun b rest rs hb hrs => ?_,
    fun mode rs i rest hi hop => ?_, fun D rs b rest d h => (decodeAt_iff.1 h).running_status⟩
  · refine decodeAt_invalidRunningStatus rest hb rfl fun c hc => ?_
    rcases hrs with rfl | rfl | rfl | rfl <;> cases hc <;> rfl
  · simp only [← operandBytes_eq_nil_iff]
    exact decodeAt_encode_control mode rs rest hi hop

/-! ### O2 -/

/-- The most bytes a field takes (R132). -/
def Field.maxBytes : Field → Nat
  | .u8 | .s8 => 1
  | .u16 | .s16 => 2
  | .u24 => 3
  | .vlq => 4

/-- The most bytes the fields of a format take. -/
def formatMaxBytes (fs : List Field) : Nat := (fs.map Field.maxBytes).sum

theorem formatMaxBytes_cons (f : Field) (fs : List Field) : formatMaxBytes (f :: fs) = f.maxBytes + formatMaxBytes fs := List.sum_cons

theorem formatMaxBytes_le (fs : List Field) : formatMaxBytes fs ≤ 4 * fs.length := by
  induction fs with
  | nil => exact Nat.le_refl 0
  | cons f fs ih =>
    have hf : f.maxBytes ≤ 4 := by cases f <;> decide
    rw [formatMaxBytes_cons, List.length_cons]
    omega

section

variable {α : Type} {a : α} {bs : List Byte}

theorem readField_maxBytes {f : Field} {k : Int → List Byte → DecodeResult α} (h : readField f bs k = .ok a) :
    ∃ v r, k v r = .ok a ∧ r.length < bs.length ∧ bs.length ≤ r.length + f.maxBytes := by
  cases f with
  | vlq => exact readField_ok h
  | u8 | s8 =>
    rcases bs with _ | ⟨b, r⟩
    · cases h
    · exact ⟨_, r, h, Nat.lt_succ_self _, Nat.le_refl _⟩
  | u16 | s16 =>
    rcases bs with _ | ⟨b0, _ | ⟨b1, r⟩⟩
    · cases h
    · cases h
    · exact ⟨_, r, h, by simp only [List.length_cons]; omega, Nat.le_refl _⟩
  | u24 =>
    rcases bs with _ | ⟨b0, _ | ⟨b1, _ | ⟨b2, r⟩⟩⟩
    · cases h
    · cases h
    · cases h
    · exact ⟨_, r, h, by simp only [List.length_cons]; omega, Nat.le_refl _⟩

theorem readFields_length {fs : List Field} {k : List Int → List Byte → DecodeResult α} (h : readFields fs bs k = .ok a) :
    ∃ vs r, k vs r = .ok a ∧ r.length + fs.length ≤ bs.length ∧ bs.length ≤ r.length + formatMaxBytes fs := by
  induction fs generalizing bs k with
  | nil => exact ⟨[], bs, h, Nat.le_refl _, Nat.le_refl _⟩
  | cons f fs ih =>
    obtain ⟨v, r, hv, hlt, hle⟩ := readField_maxBytes h
    obtain ⟨vs, r', hk, hmin, hmax⟩ := ih hv
    rw [formatMaxBytes_cons, List.length_cons]
    exact ⟨v :: vs, r', hk, by omega, by omega⟩

theorem readFormat_length {ok : Int → Bool} {fs : List Field} {k : List Int → List Byte → DecodeResult α}
    (h : readFormat ok fs bs k = .ok a) :
    ∃ vs r, k vs r = .ok a ∧ r.length + fs.length ≤ bs.length ∧ bs.length ≤ r.length + formatMaxBytes fs := by
  cases fs with
  | nil => exact ⟨[], bs, h, Nat.le_refl _, Nat.le_refl _⟩
  | cons f fs =>
    rw [readFormat_cons] at h
    obtain ⟨v, r, hv, hlt, hle⟩ := readField_maxBytes h
    split at hv
    · obtain ⟨vs, r', hk, hmin, hmax⟩ := readFields_length hv
      rw [formatMaxBytes_cons, List.length_cons]
      exact ⟨v :: vs, r', hk, by omega, by omega⟩
    · cases hv

end

/-- A kind has at most three operands (R131). -/
theorem build_length {kind : CmdKind} {vs : List Int} {i : Instr} (h : kind.build vs = some i) : vs.length ≤ 3 := by
  rcases vs with _ | ⟨a, _ | ⟨b, _ | ⟨c, _ | ⟨d, vs⟩⟩⟩⟩
  case cons.cons.cons.cons => cases kind <;> cases h
  all_goals simp

theorem CtrlEntry.fits_length {e : CtrlEntry} (h : e.fits = true) : e.format.length ≤ 3 := by
  obtain ⟨i, hi⟩ := Option.isSome_iff_exists.1 h
  simpa only [List.length_map] using build_length hi

theorem referenceCtrlMap_maxBytes {op : Byte} {e : CtrlEntry} (h : referenceCtrlMap op = some e) : formatMaxBytes e.format ≤ 6 := by
  unfold referenceCtrlMap at h
  split at h <;> cases h <;> decide

theorem accept_rest {strict : Bool} {i j : Instr} {r r' : List Byte} (h : accept strict i r = .ok (j, r')) : r' = r := by
  unfold accept at h
  split at h <;> cases h
  rfl

/-- What a control byte decodes from: a byte at least if its format has a field, and no more than its format and the number of
operands of any kind allow. -/
theorem decodeControl_length {D : DecodeProfile} {op : Byte} {bs r : List Byte} {i : Instr} (h : decodeControl D op bs = .ok (i, r)) :
    r.length ≤ bs.length ∧ (isBareControl D op = false → r.length < bs.length) ∧ bs.length ≤ r.length + 12 ∧
      (D.ctrlMap = referenceCtrlMap → bs.length ≤ r.length + 6) := by
  unfold decodeControl at h
  split at h
  · cases h
  · next e he =>
    split at h
    · next hf =>
      obtain ⟨vs, r', hk, hmin, hmax⟩ := readFormat_length h
      split at hk
      · cases hk
      · next j hj =>
        obtain rfl : r = r' := accept_rest hk
        have hlen := CtrlEntry.fits_length hf
        have hwide := formatMaxBytes_le e.format
        refine ⟨by omega, fun hbare => ?_, by omega, fun hmap => ?_⟩
        · rw [isBareControl_entry he, List.isEmpty_eq_false_iff_exists_mem] at hbare
          obtain ⟨f, hf⟩ := hbare
          have hpos := List.length_pos_of_mem hf
          omega
        · rw [hmap] at he
          have href := referenceCtrlMap_maxBytes he
          omega
    · cases h

theorem decodeNote_length {op : Byte} {bs r : List Byte} {i : Instr} (h : decodeNote op bs = .ok (i, r)) :
    r.length < bs.length ∧ bs.length ≤ r.length + 5 := by
  cases bs with
  | nil => cases h
  | cons v bs =>
    simp only [decodeNote, readByte_cons, readVlq] at h
    split at h
    · cases h
    · next n r' hn =>
      obtain ⟨hlt, hle, -⟩ := vlqLoop_ok hn
      cases h
      rw [List.length_cons]
      omega

theorem DecodedAt.length {D : DecodeProfile} {rs : Option Byte} {b : Byte} {r : List Byte} {d : Decoded} (h : DecodedAt D rs b r d) :
    1 ≤ d.len ∧ d.len ≤ (b :: r).length ∧ d.len ≤ 13 ∧ (D.ctrlMap = referenceCtrlMap → d.len ≤ 7) := by
  cases h with
  | note _ _ h =>
    obtain ⟨hlt, hle⟩ := decodeNote_length h
    dsimp only [List.length_cons]
    omega
  | running _ _ _ hbare h =>
    obtain ⟨-, hlt, hle, href⟩ := decodeControl_length h
    have hpos := hlt hbare
    dsimp only
    refine ⟨by omega, by omega, by omega, fun hmap => ?_⟩
    have hmax := href hmap
    omega
  | control _ h =>
    obtain ⟨hmin, -, hle, href⟩ := decodeControl_length h
    dsimp only [List.length_cons]
    refine ⟨by omega, by omega, by omega, fun hmap => ?_⟩
    have hmax := href hmap
    omega

/-- Settles O2: every field takes a byte at least and its type's bytes at most, and no kind has more than three. -/
theorem decodeAnswersWellFormed : Obligations.decode_answers_well_formed := by
  intro D rs bs d h
  refine ⟨decodeAt_wellFormed h, ?_⟩
  cases bs with
  | nil => cases h
  | cons b r => exact (decodeAt_iff.1 h).length

/-! ### O5 -/

/-- Settles O5: the commands of R144 are well formed and encode to its bytes, so the bytes decode to them by O1. -/
theorem workedEncodings : Obligations.worked_encodings := by
  intro p hp
  have hspelled : p.2.WellFormed ∧ encode p.2 = p.1 := by
    revert p
    decide
  obtain ⟨hwf, hencode⟩ := hspelled
  have hdecode := decodeEncode p.2 [] hwf
  rw [List.append_nil, hencode] at hdecode
  exact ⟨hdecode, hencode⟩

end Sys2Proof

end

/-! ## The structural walk ends and is closed (40_sequence_decoder.md R181 to R187) -/

section

namespace Sys2Proof.Machine

variable {P : Profile} {song : Song}

/-! ### O57 -/

theorem WalkClosed.isSome_start {tables : WalkTables} (h : WalkClosed P song tables fun _ _ => False) {t : TrackId} {x : Off24}
    (hx : song.starts[t] = some x) : (walkEntryAt tables t x.toNat).isSome = true :=
  (h.start t x hx).resolve_right id

theorem WalkClosed.isSome_next {tables : WalkTables} (h : WalkClosed P song tables fun _ _ => False) {t u : TrackId} {p q : Nat}
    {e : WalkEntry} (he : walkEntryAt tables t p = some e) (hl : LeadsTo t p e.len e.cmd u q) :
    (walkEntryAt tables u q).isSome = true :=
  (h.next t p e he u q hl).resolve_right id

/-- Settles O57: a successful walk owes nothing, so every start and every offset a command leads to has its entry. -/
theorem walkIsClosed : Obligations.walk_is_closed := by
  intro P song tables hwalk
  have h : WalkClosed P song tables fun _ _ => False := (walk_closed P song).1 tables hwalk
  refine ⟨fun t x hx => h.isSome_start hx, fun t p e he => ⟨fun hf hr hj => ?_, fun x hx => ?_, fun i x hx => ?_⟩⟩
  · exact h.isSome_next he (.falls ⟨hf, hr, hj⟩)
  · obtain hx | hx := hx
    · exact h.isSome_next he (.jumps x hx)
    · exact h.isSome_next he (.calls x hx)
  · exact h.isSome_next he (.opens i x hx)

/-! ### O56 -/

/-- The places below `len` that the lists have no entry for. -/
def unentered (len : Nat) (tables : WalkTables) : Finset (TrackId × Nat) :=
  (Finset.univ ×ˢ Finset.range len).filter fun x => walkEntryAt tables x.1 x.2 = none

/-- What the walk can still do: entering a place takes one from the first part and adds at most one path to the second, and a path that
returns takes one from the second. -/
def Walk.budget (len : Nat) (w : Walk) : Nat := 2 * (unentered len w.tables).card + (w.frames.length + w.pending.length)

theorem mem_unentered {len : Nat} {tables : WalkTables} {t : TrackId} {p : Nat} :
    (t, p) ∈ unentered len tables ↔ p < len ∧ walkEntryAt tables t p = none := by
  simp [unentered]

/-- Entering the path's position leaves every other place as it was. -/
theorem unentered_enter (len : Nat) (w : Walk) (d : Decoded) :
    unentered len (w.enter d).tables = (unentered len w.tables).erase (w.t, w.p) := by
  ext ⟨u, q⟩
  rw [Finset.mem_erase, mem_unentered, mem_unentered, w.enter_entryAt]
  split
  · next h => obtain ⟨rfl, rfl⟩ := h; simp
  · next h =>
    have hne : (u, q) ≠ (w.t, w.p) := fun heq => by cases heq; exact h ⟨rfl, rfl⟩
    simp [hne]

/-- Entering a command that had no entry takes two from the budget. -/
theorem Walk.budget_enter {len : Nat} {w : Walk} (hp : w.p < len) (hnone : walkEntryAt w.tables w.t w.p = none) (d : Decoded) :
    (w.enter d).budget len + 2 = w.budget len := by
  have hmem : (w.t, w.p) ∈ unentered len w.tables := mem_unentered.2 ⟨hp, hnone⟩
  have hcard := Finset.card_erase_add_one hmem
  have hqueue : (w.enter d).frames = w.frames ∧ (w.enter d).pending = w.pending := ⟨rfl, rfl⟩
  unfold Walk.budget
  rw [unentered_enter, hqueue.1, hqueue.2]
  omega

/-- The outcome of a move leaves a budget below `n`; a walk that has stopped needs none. -/
def WalkOut.within (len n : Nat) : WalkOut → Prop
  | .more w => w.budget len < n
  | .done _ => True
  | .error _ => True

/-- A path that returns takes the path it goes on with from the budget. -/
theorem pathDone_within (len : Nat) (w : Walk) : w.pathDone.within len (w.budget len) := by
  unfold Walk.pathDone
  split
  · next f fs hf =>
    simp only [WalkOut.within, Walk.budget, hf, List.length_cons]
    omega
  · next hf =>
    split
    · trivial
    · next t p rest hp =>
      simp only [WalkOut.within, Walk.budget, hf, hp, List.length_cons, List.length_nil]
      omega

/-- Following a command adds at most one path. -/
theorem follow_within (len : Nat) (w : Walk) (rom : Memory) (d : Decoded) : (w.follow P rom d).within len (w.budget len + 2) := by
  have ends : w.pathDone.within len (w.budget len + 2) := by
    have h := pathDone_within len w
    cases hd : w.pathDone with rw [hd] at h
    | more v => exact Nat.lt_add_right 2 h
    | done tables => trivial
    | error e => trivial
  have raises (k : LoadErrorKind) : (w.raise rom k).within len (w.budget len + 2) := trivial
  cases hd : d.cmd with
  | fine => simp only [Walk.follow, hd]; exact ends
  | ret => simp only [Walk.follow, hd]; exact ends
  | jump x =>
    simp only [Walk.follow, hd]
    split
    · exact raises _
    · simp only [WalkOut.within, Walk.budget]
      omega
  | call x =>
    simp only [Walk.follow, hd]
    split
    · exact raises _
    · split
      · exact raises _
      · simp only [WalkOut.within, Walk.budget, List.length_cons]
        omega
  | trackOpen i x =>
    simp only [Walk.follow, hd, WalkOut.within, Walk.budget, List.length_append, List.length_singleton]
    omega
  | _ =>
    simp only [Walk.follow, hd, WalkOut.within, Walk.budget]
    omega

/-- Every iteration takes from the budget: it enters a place or returns from a path. -/
theorem walkStep_within (rom : Memory) (w : Walk) : (w.step P rom).within rom.len (w.budget rom.len) := by
  unfold Walk.step
  split
  · trivial
  · next hp =>
    split
    · split
      · trivial
      · exact pathDone_within _ _
    · next hnone =>
      split
      · trivial
      · next d _ =>
        rw [← Walk.budget_enter (Nat.not_le.1 hp) hnone d]
        exact follow_within _ _ _ _

/-- A walk with more iterations than its budget does not run out of them. -/
theorem walkLoop_terminates (rom : Memory) {n : Nat} {w : Walk} (h : w.budget rom.len < n) :
    walkLoop P rom n w ≠ .error (.fault .walkDiverged) := by
  induction n generalizing w with
  | zero => cases h
  | succ n ih =>
    have hstep := walkStep_within (P := P) rom w
    unfold walkLoop
    cases hout : w.step P rom with rw [hout] at hstep
    | more v => exact ih (Nat.lt_of_lt_of_le hstep (Nat.le_of_lt_succ h))
    | done tables => nofun
    | error e => nofun

theorem unentered_card_le (len : Nat) (tables : WalkTables) : (unentered len tables).card ≤ 16 * len := by
  have hcard : (Finset.univ ×ˢ Finset.range len : Finset (TrackId × Nat)).card = 16 * len := by
    rw [Finset.card_product, Finset.card_univ, Fintype.card_fin, Finset.card_range]
  exact hcard ▸ Finset.card_filter_le _ _

theorem startPairs_length_le (starts : StartTable) : (startPairs starts).length ≤ 16 := by
  have h : (startPairs starts).length ≤ (List.finRange Config.maxTracks).length := List.length_filterMap_le _ _
  rwa [List.length_finRange] at h

/-- Settles O56: each of the 16 places a byte costs two of the budget at most, and 15 starts wait at first. -/
theorem walkTerminates : Obligations.walk_terminates := by
  intro P song
  unfold walk
  split
  · nofun
  · next t p rest hcons =>
    have hplaces := unentered_card_le song.rom.len (Vector.replicate Config.maxTracks [])
    have hstarts := startPairs_length_le song.starts
    rw [hcons, List.length_cons] at hstarts
    refine walkLoop_terminates song.rom ?_
    simp only [Walk.budget, List.length_nil, walkBound]
    omega

end Sys2Proof.Machine

end

/-! ## A load reads nothing of the block (40_sequence_decoder.md R180, R190, R199) -/

section

namespace Sys2Proof.Machine

variable {P : Profile} {s s' : State P}

/-! ### The parts of the scratch state that steer the pass (R190) -/

/-- Two scratch states agree on the parts that steer the accounting pass and reach its result. -/
structure State.SamePass (s s' : State P) : Prop where
  seqRom : s'.seqRom = s.seqRom
  song : s'.song = s.song
  tracks : s'.tracks = s.tracks
  elapsed : s'.elapsed = s.elapsed

/-- They agree on the executing track as well: between the turns of two tracks it steers nothing. -/
structure State.SameTurn (s s' : State P) : Prop extends s.SamePass s' where
  cur : s'.cur = s.cur

/-- The same stop, or two next states that agree. -/
inductive SameResult : Result P → Result P → Prop
  | next {t t' : State P} (h : t.SameTurn t') : SameResult (.next t) (.next t')
  | fault (f : Fault) : SameResult (.fault f) (.fault f)
  | refused (r : Refusal) : SameResult (.refused r) (.refused r)

theorem State.SameTurn.track (h : s.SameTurn s') : s'.track = s.track := by
  simp only [State.track, h.tracks, h.cur]

theorem State.SameTurn.fetch (h : s.SameTurn s') : s'.fetch = s.fetch := by
  simp only [State.fetch, State.entryAt, h.song, h.cur, h.track]

theorem State.SameTurn.setTrack (h : s.SameTurn s') (u : TrackId) (x : Track) : (s.setTrack u x).SameTurn (s'.setTrack u x) :=
  ⟨⟨h.seqRom, h.song, by simp only [State.setTrack_tracks, h.tracks], h.elapsed⟩, h.cur⟩

/-- A note-on writes the channel pool only, which does not steer the pass (R190). -/
theorem State.SameTurn.startVoice (h : s.SameTurn s') (key velocity : Nat) (dur : Int) :
    (startVoice s key velocity dur).SameTurn (startVoice s' key velocity dur) := by
  rw [startVoice_frame s, startVoice_frame s']
  exact ⟨⟨h.seqRom, h.song, h.tracks, h.elapsed⟩, h.cur⟩

theorem withLen_same (h : s.SameTurn s') {k k' : Nat → Result P} (hk : ∀ n, SameResult (k n) (k' n)) :
    SameResult (withLen s k) (withLen s' k') := by
  unfold withLen
  rw [h.fetch]
  split
  · exact .fault _
  · exact hk _

theorem retire_same (h : s.SameTurn s') (f : Track → Track) : SameResult (retire s f) (retire s' f) := by
  refine withLen_same h fun n => ?_
  rw [h.track, h.cur]
  exact .next (h.setTrack _ _)

/-- No command reads more of the scratch state than steers the pass, but for what it writes to the channels and the tempo (R190). -/
theorem execute_same (h : s.SameTurn s') (i : Instr) : SameResult (execute i s) (execute i s') := by
  cases commandShape P i with
  | register f g hx =>
    rw [hx, hx]
    exact retire_same (s := { s with tempo := g s.tempo }) (s' := { s' with tempo := g s'.tempo })
      ⟨⟨h.seqRom, h.song, h.tracks, h.elapsed⟩, h.cur⟩ f
  | note key velocity dur hx =>
    rw [hx, hx]
    refine withLen_same h fun n => ?_
    rw [h.track, h.cur]
    exact .next ((h.setTrack _ _).startVoice _ _ _)
  | endOfTie key hx =>
    rw [hx, hx]
    exact retire_same (s := s.mapChannels _) (s' := s'.mapChannels _) ⟨⟨h.seqRom, h.song, h.tracks, h.elapsed⟩, h.cur⟩ id
  | trackOpen u target hi =>
    simp only [hi, execute, execTrackOpen]
    refine withLen_same h fun n => ?_
    have hopened := h.setTrack u (s.tracks[u].openAt target)
    rw [h.tracks, hopened.track, h.track, h.cur]
    exact .next (hopened.setTrack _ _)
  | jump target hi =>
    simp only [hi, execute, execJump, h.track, h.cur]
    exact .next (h.setTrack _ _)
  | call target hi =>
    simp only [hi, execute, execCall, h.track, h.cur]
    split
    · exact .fault _
    · exact withLen_same h fun n => .next (h.setTrack _ _)
  | loop count hi =>
    simp only [hi, execute, execLoop, h.track, h.cur]
    split
    · exact .fault _
    · exact withLen_same h fun n => .next (h.setTrack _ _)
  | loopend hi =>
    simp only [hi, execute, execLoopend, h.track, h.cur]
    split
    · exact .next (h.setTrack _ _)
    · exact retire_same h _
    · exact .next (h.setTrack _ _)
    · exact .fault _
  | ret hi =>
    simp only [hi, execute, execRet, h.track, h.cur]
    split
    · exact .next (h.setTrack _ _)
    · exact .fault _
  | fine hi =>
    simp only [hi, execute, execFine, h.track, h.cur]
    exact .next ⟨⟨h.seqRom, h.song, by simp [h.tracks], h.elapsed⟩, h.cur⟩

theorem State.SameTurn.stamp (h : s.SameTurn s') : s.stamp.SameTurn s'.stamp := by
  have hsong : s'.stamp.song = s.stamp.song := by
    unfold State.stamp
    simp only [h.song, h.cur, h.track, h.elapsed]
    split
    · exact h.song
    · rfl
  rw [s.stamp_frame, s'.stamp_frame]
  exact ⟨⟨h.seqRom, hsong, h.tracks, h.elapsed⟩, h.cur⟩

/-! ### The pass -/

/-- Two accounting states whose scratch states agree as `R` says, and which agree on everything else. -/
structure Acct.Same (R : State P → State P → Prop) (a a' : Acct P) : Prop where
  m : R a.m a'.m
  done : a'.done = a.done
  length : a'.length = a.length
  cycle : a'.cycle = a.cycle

/-- The same stop, or two accounting states that agree. -/
inductive SameEnd (R : State P → State P → Prop) : Except LoadStop (Acct P) → Except LoadStop (Acct P) → Prop
  | ok {a a' : Acct P} (h : a.Same R a') : SameEnd R (.ok a) (.ok a')
  | error (e : LoadStop) : SameEnd R (.error e) (.error e)

variable {a a' : Acct P}

/-! #### A track's command loop (R192) -/

theorem Acct.Same.raise (h : a.Same State.SameTurn a') (k : LoadErrorKind) : a'.raise k = a.raise k := by
  unfold Acct.raise
  rw [h.m.cur, h.m.track, h.m.seqRom]

theorem Acct.Same.stopOf (h : a.Same State.SameTurn a') (f : Fault) : a'.stopOf f = a.stopOf f := by
  cases f with
  | callStackOverflow | returnUnderflow | badLoopEnd => exact h.raise _
  | noCommand | unsoundChannel | walkDiverged => rfl

theorem Acct.Same.settle (h : a.Same State.SameTurn a') : a.settle.Same State.SameTurn a'.settle := by
  unfold Acct.settle
  rw [h.m.track]
  split
  · exact ⟨h.m, by simp only [h.done, h.m.cur], by simp only [h.length, h.m.cur, h.m.elapsed], h.cycle⟩
  · exact h

theorem Acct.Same.closeCycle (h : a.Same State.SameTurn a') (first : Nat) :
    (a.closeCycle first).Same State.SameTurn (a'.closeCycle first) :=
  ⟨h.m, by simp only [Acct.closeCycle, h.done, h.m.cur], by simp only [Acct.closeCycle, h.length, h.m.cur, h.m.elapsed],
    by simp only [Acct.closeCycle, h.cycle, h.m.cur]⟩

theorem Acct.Same.reopened (h : a.Same State.SameTurn a') {t t' : State P} (ht : t.SameTurn t') :
    reopened a'.m t' a.done = reopened a.m t a.done := by
  unfold Machine.reopened
  rw [h.m.tracks, ht.tracks]

theorem acctExec_same (h : a.Same State.SameTurn a') (n : Nat) : SameEnd State.SameTurn (acctExec n a) (acctExec n a') := by
  induction n generalizing a a' with
  | zero =>
    unfold acctExec
    simp only [h.done, h.m.track, h.m.cur, h.raise]
    split
    · exact .ok h.settle
    · exact .error _
  | succ n ih =>
    unfold acctExec
    simp only [h.done, h.m.track, h.m.cur, h.raise, h.m.fetch, h.m.elapsed]
    split
    · exact .ok h.settle
    · split
      · exact .error _
      · next e _ =>
        split
        · split
          · exact .error _
          · exact .ok (h.closeCycle _)
        · have hx := execute_same h.m.stamp e.cmd
          generalize execute e.cmd a.m.stamp = x at hx
          generalize execute e.cmd a'.m.stamp = x' at hx
          cases hx with
          | next ht => exact ih ⟨ht, h.reopened ht, h.length, h.cycle⟩
          | fault f => simp only [h.stopOf f]; exact .error _
          | refused r => exact .error _

/-! #### The turns of the tracks (R192) -/

/-- A track takes its turn whichever track had it before. -/
theorem Acct.Same.turn (h : a.Same State.SamePass a') (u : TrackId) :
    ({ a with m := { a.m with cur := u } } : Acct P).Same State.SameTurn { a' with m := { a'.m with cur := u } } :=
  ⟨⟨⟨h.m.seqRom, h.m.song, h.m.tracks, h.m.elapsed⟩, rfl⟩, h.done, h.length, h.cycle⟩

theorem SameEnd.endTurn {x x' : Except LoadStop (Acct P)} (h : SameEnd State.SameTurn x x') : SameEnd State.SamePass x x' := by
  cases h with
  | ok hb => exact .ok ⟨hb.m.toSamePass, hb.done, hb.length, hb.cycle⟩
  | error e => exact .error e

theorem acctTickZero_same (u : TrackId) (h : a.Same State.SamePass a') :
    SameEnd State.SamePass (acctTickZero u a) (acctTickZero u a') := by
  have hdone : a'.done[u] = a.done[u] := by rw [h.done]
  unfold acctTickZero
  rw [hdone, h.m.tracks]
  split
  · exact .ok h
  · exact (acctExec_same (h.turn u) _).endTurn

theorem Acct.Same.countRest (h : a.Same State.SamePass a') (u : TrackId) :
    ({ a with m := a.m.setTrack u a.m.tracks[u].countRest } : Acct P).Same State.SamePass
      { a' with m := a'.m.setTrack u a.m.tracks[u].countRest } :=
  ⟨⟨h.m.seqRom, h.m.song, by simp only [State.setTrack_tracks, h.m.tracks], h.m.elapsed⟩, h.done, h.length, h.cycle⟩

theorem acctTrack_same (u : TrackId) (h : a.Same State.SamePass a') : SameEnd State.SamePass (acctTrack u a) (acctTrack u a') := by
  have hdone : a'.done[u] = a.done[u] := by rw [h.done]
  have hturn : ({ a with m := { a.m.setTrack u a.m.tracks[u].countRest with cur := u } } : Acct P).Same State.SameTurn
      { a' with m := { a'.m.setTrack u a.m.tracks[u].countRest with cur := u } } := (h.countRest u).turn u
  unfold acctTrack
  rw [hdone, h.m.tracks]
  split
  · dsimp only
    rw [hturn.m.track]
    split
    · exact (acctExec_same hturn _).endTurn
    · exact (SameEnd.ok hturn).endTurn
  · exact .ok h

theorem overTracks_same {f : TrackId → Acct P → Except LoadStop (Acct P)}
    (hf : ∀ u {a a' : Acct P}, a.Same State.SamePass a' → SameEnd State.SamePass (f u a) (f u a')) (h : a.Same State.SamePass a')
    (us : List TrackId) : SameEnd State.SamePass (overTracks f us a) (overTracks f us a') := by
  induction us generalizing a a' with
  | nil => exact .ok h
  | cons u us ih =>
    have hu := hf u h
    unfold overTracks
    generalize f u a = x at hu
    generalize f u a' = x' at hu
    cases hu with
    | ok hb => exact ih hb
    | error e => exact .error e

theorem Acct.Same.tick (h : a.Same State.SamePass a') :
    ({ a with m := { a.m with elapsed := a.m.elapsed + 1 } } : Acct P).Same State.SamePass
      { a' with m := { a'.m with elapsed := a'.m.elapsed + 1 } } :=
  ⟨⟨h.m.seqRom, h.m.song, h.m.tracks, congrArg (· + 1) h.m.elapsed⟩, h.done, h.length, h.cycle⟩

theorem Acct.Same.allDone (h : a.Same State.SamePass a') : a'.allDone = a.allDone := by
  unfold Acct.allDone
  rw [h.done]

theorem acctLoop_same (h : a.Same State.SamePass a') (n : Nat) : SameEnd State.SamePass (acctLoop n a) (acctLoop n a') := by
  induction n generalizing a a' with
  | zero =>
    unfold acctLoop
    rw [h.allDone]
    split
    · exact .ok h
    · exact .error _
  | succ n ih =>
    have hpass := overTracks_same (fun u _ _ => acctTrack_same u) h.tick (List.finRange Config.maxTracks)
    unfold acctLoop
    rw [h.allDone]
    split
    · exact .ok h
    · dsimp only
      generalize overTracks acctTrack (List.finRange Config.maxTracks) { a with m := { a.m with elapsed := a.m.elapsed + 1 } } = x at hpass
      generalize overTracks acctTrack (List.finRange Config.maxTracks) { a' with m := { a'.m with elapsed := a'.m.elapsed + 1 } } = x' at hpass
      cases hpass with
      | ok hb => exact ih hb
      | error e => exact .error e

/-! ### The results and the load -/

theorem longestOf_same (h : a.Same State.SamePass a') (us : List TrackId) (best : Option TrackId) :
    longestOf a' us best = longestOf a us best := by
  induction us generalizing best with
  | nil => rfl
  | cons u us ih => simp only [longestOf, h.m.tracks, h.length, ih]

theorem acctResult_same (h : a.Same State.SamePass a') (g : SongTable) : acctResult a' g = acctResult a g := by
  unfold acctResult
  rw [longestOf_same h, h.length, h.cycle]

/-- What the pass keeps of the block does not steer it (R190, R191). -/
theorem account_same (s s' : State P) (song : Song) (tables : WalkTables) : account s song tables = account s' song tables := by
  have hstart : (acctStart s song tables).Same State.SamePass (acctStart s' song tables) := ⟨⟨rfl, rfl, rfl, rfl⟩, rfl, rfl, rfl⟩
  have hzero := overTracks_same (fun u _ _ => acctTickZero_same u) hstart (List.finRange Config.maxTracks)
  unfold account
  generalize overTracks acctTickZero (List.finRange Config.maxTracks) (acctStart s song tables) = x at hzero
  generalize overTracks acctTickZero (List.finRange Config.maxTracks) (acctStart s' song tables) = x' at hzero
  cases hzero with
  | error e => rfl
  | ok hb =>
    have hloop := acctLoop_same hb P.accountLimit
    dsimp only
    generalize acctLoop P.accountLimit _ = y at hloop
    generalize acctLoop P.accountLimit _ = y' at hloop
    cases hloop with
    | error e => rfl
    | ok hc =>
      dsimp only
      rw [hc.m.song]
      split
      · rfl
      · rw [acctResult_same hc]

/-- Settles O58: the walk takes no state, and the pass starts from the song alone. -/
theorem loadIsPure : Obligations.load_is_pure := by
  intro P s s' song
  unfold load
  split
  · rfl
  · exact account_same s s' _ _

end Sys2Proof.Machine

end

/-! ## The accounting pass step by step (40_sequence_decoder.md R190 to R197, 42_tick_scheduler.md R275) -/

section

namespace Sys2Proof.Machine

variable {P : Profile}

/-! ### A track's command loop (R192 to R194) -/

variable {a : Acct P}

/-- The executing track has a command to execute: it is neither done nor stopped nor resting (R192). -/
structure Acct.Runs (a : Acct P) : Prop where
  notDone : a.done[a.m.cur] = false
  live : a.m.track.stopped = false
  rested : a.m.track.rest = 0

/-- The cycle test of R193 as a condition on the entry and the stack. -/
def Acct.CycleAt (a : Acct P) (e : Entry) : Prop := e.ticks ≠ [] ∧ ∀ y ∈ a.m.track.stack, ∃ body, y = .loop body 0

theorem Acct.cycleAt_iff {e : Entry} : a.CycleAt e ↔ e.ticks ≠ [] ∧ cycleKnown a.m.track.stack = true :=
  and_congr_right' (cycleKnown_iff _).symm

theorem acctExec_halts (n : Nat) (h : a.done[a.m.cur] = true ∨ a.m.track.stopped = true ∨ a.m.track.rest ≠ 0) :
    acctExec n a = .ok a.settle := by
  have hstop : (a.done[a.m.cur] || a.m.track.stopped || decide (a.m.track.rest ≠ 0)) = true := by simpa [or_assoc] using h
  unfold acctExec
  rw [if_pos hstop]

theorem Acct.Runs.not_halted (h : a.Runs) : ¬(a.done[a.m.cur] || a.m.track.stopped || decide (a.m.track.rest ≠ 0)) = true := by
  simp [h.notDone, h.live, h.rested]

/-- R192: no command is left before EXEC_LIMIT. -/
theorem acctExec_exhausted (h : a.Runs) : acctExec 0 a = .error (a.raise .zeroTickLoop) := by
  unfold acctExec
  rw [if_neg h.not_halted]

section

variable {e : Entry} (n : Nat) (h : a.Runs) (he : a.m.fetch = some e)

include h he

theorem acctExec_known (hk : a.CycleAt e) :
    acctExec (n + 1) a =
      if e.ticks.headD 0 = a.m.elapsed then .error (a.raise .zeroTickLoop) else .ok (a.closeCycle (e.ticks.headD 0)) := by
  rw [acctExec, if_neg h.not_halted]
  simp only [he]
  rw [if_pos (Acct.cycleAt_iff.1 hk)]

variable (hk : ¬ a.CycleAt e)

include hk

theorem acctExec_executes {m' : State P} (hx : execute e.cmd a.m.stamp = .next m') :
    acctExec (n + 1) a = acctExec n { a with m := m', done := reopened a.m m' a.done } := by
  rw [acctExec, if_neg h.not_halted]
  simp only [he, hx]
  rw [if_neg (mt Acct.cycleAt_iff.2 hk)]

theorem acctExec_faults {f : Fault} (hx : execute e.cmd a.m.stamp = .fault f) : acctExec (n + 1) a = .error (a.stopOf f) := by
  rw [acctExec, if_neg h.not_halted]
  simp only [he, hx]
  rw [if_neg (mt Acct.cycleAt_iff.2 hk)]

end

theorem reopened_eq (before after : State P) (done : Vector Bool Config.maxTracks) :
    reopened before after done =
      vecOfFn fun i => if before.tracks[i].opened = false ∧ after.tracks[i].opened = true then false else done[i] := by
  simp only [reopened, Bool.and_eq_true, Bool.not_eq_true']

/-! ### The turns of the tracks and the ticks (R192, R197) -/

theorem acctTickZero_eq (u : TrackId) (a : Acct P) :
    acctTickZero u a =
      if a.done[u] = false ∧ a.m.tracks[u].stopped = false then acctExec P.execLimit { a with m := { a.m with cur := u } } else .ok a := by
  unfold acctTickZero
  cases a.done[u] <;> cases a.m.tracks[u].stopped <;> rfl

theorem acctTrack_idle {u : TrackId} (h : ¬(a.m.tracks[u].opened = true ∧ a.m.tracks[u].stopped = false ∧ a.done[u] = false)) :
    acctTrack u a = .ok a := by
  unfold acctTrack
  rw [if_neg]
  simpa [and_assoc] using h

/-- R275: the track counts its rest down, and runs when none is left. -/
theorem acctTrack_counts {u : TrackId} (h : a.m.tracks[u].opened = true ∧ a.m.tracks[u].stopped = false ∧ a.done[u] = false) :
    acctTrack u a =
      if a.m.tracks[u].countRest.rest = 0 then
        acctExec P.execLimit { a with m := { a.m.setTrack u a.m.tracks[u].countRest with cur := u } }
      else .ok { a with m := { a.m.setTrack u a.m.tracks[u].countRest with cur := u } } := by
  have hrun : (a.m.tracks[u].opened && !a.m.tracks[u].stopped && !a.done[u]) = true := by simpa [and_assoc] using h
  have htrack : ({ a.m.setTrack u a.m.tracks[u].countRest with cur := u } : State P).track = a.m.tracks[u].countRest := by
    simp only [State.track]
    exact (State.setTrack_at ..).trans (if_pos rfl)
  unfold acctTrack
  rw [if_pos hrun]
  simp only [htrack]

theorem acctLoop_over (h : ∀ u : TrackId, a.done[u] = true) (n : Nat) : acctLoop n a = .ok a := by
  unfold acctLoop
  rw [if_pos (a.allDone_iff.2 h)]

theorem Acct.not_allDone {u : TrackId} (h : a.done[u] = false) : ¬ a.allDone = true := fun hall => by
  have := a.allDone_iff.1 hall u
  rw [h] at this
  cases this

theorem acctLoop_exhausted {u : TrackId} (h : a.done[u] = false) :
    acctLoop 0 a = .error (.error ⟨.accountLimit, none, none, none⟩) := by
  unfold acctLoop
  rw [if_neg (Acct.not_allDone h)]

theorem acctLoop_ticks {u : TrackId} (h : a.done[u] = false) (n : Nat) :
    acctLoop (n + 1) a =
      ((List.finRange Config.maxTracks).foldlM (fun b v => acctTrack v b) { a with m := { a.m with elapsed := a.m.elapsed + 1 } }).bind
        (acctLoop n) := by
  rw [acctLoop, if_neg (Acct.not_allDone h), ← overTracks_eq_foldlM]
  dsimp only
  split
  · next hx => rw [hx]; rfl
  · next hx => rw [hx]; rfl

/-! ### The whole pass (R190, R191) -/

theorem Track.reset_opened (start : Option Off24) : (Track.reset start).opened = start.isSome := rfl

theorem acctStart_track (s : State P) (song : Song) (tables : WalkTables) (t : TrackId) :
    (acctStart s song tables).m.tracks[t] = Track.reset song.starts[t] := vecMap_fin ..

theorem acctStart_done (s : State P) (song : Song) (tables : WalkTables) (t : TrackId) :
    (acctStart s song tables).done[t] = !(acctStart s song tables).m.tracks[t].opened := by
  rw [acctStart_track, Track.reset_opened, Option.not_isSome]
  exact vecMap_fin ..

/-- The pass up to its results: tick 0 of every track, then the ticks. -/
def accountPass (a : Acct P) : Except LoadStop (Acct P) :=
  ((List.finRange Config.maxTracks).foldlM (fun b v => acctTickZero v b) a).bind (acctLoop P.accountLimit)

/-- The pass takes the tracks in index order at each tick (R192). -/
theorem accountPass_eq (a : Acct P) :
    accountPass a = (overTracks acctTickZero (List.finRange Config.maxTracks) a).bind (acctLoop P.accountLimit) := by
  rw [accountPass, overTracks_eq_foldlM]

section

variable {s : State P} {song : Song} {tables : WalkTables}

theorem account_of_pass {b : Acct P} {g : SongTable} (hb : accountPass (acctStart s song tables) = .ok b) (hg : b.m.song = some g) :
    account s song tables = .ok (acctResult b g) := by
  rw [accountPass_eq] at hb
  unfold account
  generalize overTracks acctTickZero (List.finRange Config.maxTracks) (acctStart s song tables) = x at hb
  cases x with
  | error e => cases hb
  | ok c =>
    have hloop : acctLoop P.accountLimit c = .ok b := hb
    simp only [hloop, hg]

theorem account_of_pass_error {e : LoadStop} (he : accountPass (acctStart s song tables) = .error e) :
    account s song tables = .error e := by
  rw [accountPass_eq] at he
  unfold account
  generalize overTracks acctTickZero (List.finRange Config.maxTracks) (acctStart s song tables) = x at he
  cases x with
  | error f => cases he; rfl
  | ok c =>
    have hloop : acctLoop P.accountLimit c = .error e := he
    simp only [hloop]

end

/-! ### The results (R196) -/

/-- Of the opened tracks in `seen`, `r` is the lowest of the greatest length. -/
structure Acct.LongestIn (a : Acct P) (seen : TrackId → Prop) (r : TrackId) : Prop where
  mem : seen r
  opened : a.m.tracks[r].opened = true
  greatest : ∀ t, seen t → a.m.tracks[t].opened = true → a.length[t] ≤ a.length[r]
  lowest : ∀ t, seen t → a.m.tracks[t].opened = true → t < r → a.length[t] < a.length[r]

/-- A track after all of those seen takes the place of the longest only if it is longer. -/
theorem Acct.LongestIn.meets {seen : TrackId → Prop} {b t : TrackId} (h : a.LongestIn seen b) (hafter : ∀ x, seen x → x < t)
    (ht : a.m.tracks[t].opened = true) :
    a.LongestIn (fun x => seen x ∨ x = t) (if a.length[b] < a.length[t] then t else b) := by
  split
  · next hlt =>
    refine ⟨.inr rfl, ht, fun x hx ho => ?_, fun x hx ho hlow => ?_⟩
    · obtain hx | rfl := hx
      · exact (h.greatest x hx ho).trans hlt.le
      · exact Nat.le_refl _
    · obtain hx | rfl := hx
      · exact (h.greatest x hx ho).trans_lt hlt
      · exact absurd hlow (lt_irrefl x)
  · next hge =>
    refine ⟨.inl h.mem, h.opened, fun x hx ho => ?_, fun x hx ho hlow => ?_⟩
    · obtain hx | rfl := hx
      · exact h.greatest x hx ho
      · exact Nat.not_lt.1 hge
    · obtain hx | rfl := hx
      · exact h.lowest x hx ho hlow
      · exact absurd hlow (lt_asymm (hafter b h.mem))

theorem Acct.LongestIn.congr {seen seen' : TrackId → Prop} {r : TrackId} (h : a.LongestIn seen r)
    (hs : ∀ t, a.m.tracks[t].opened = true → (seen' t ↔ seen t)) : a.LongestIn seen' r :=
  ⟨(hs r h.opened).2 h.mem, h.opened, fun t ht ho => h.greatest t ((hs t ho).1 ht) ho,
    fun t ht ho => h.lowest t ((hs t ho).1 ht) ho⟩

theorem longestOf_some {us : List TrackId} {seen : TrackId → Prop} {b : TrackId} (h : a.LongestIn seen b) (hus : us.Pairwise (· < ·))
    (hafter : ∀ x, seen x → ∀ u ∈ us, x < u) :
    ∃ r, longestOf a us (some b) = some r ∧ a.LongestIn (fun x => seen x ∨ x ∈ us) r := by
  induction us generalizing seen b with
  | nil => exact ⟨b, rfl, h.congr fun t _ => by simp⟩
  | cons u us ih =>
    obtain ⟨hu, hus⟩ := List.pairwise_cons.1 hus
    unfold longestOf
    split
    · next ho =>
      have hnext := h.meets (fun x hx => hafter x hx u (List.mem_cons_self ..)) ho
      dsimp only
      rw [← apply_ite some]
      obtain ⟨r, hr, hl⟩ := ih hnext hus fun x hx v hv =>
        hx.elim (fun hx => hafter x hx v (List.mem_cons_of_mem _ hv)) fun hx => hx ▸ hu v hv
      exact ⟨r, hr, hl.congr fun t _ => by rw [List.mem_cons, or_assoc]⟩
    · next ho =>
      obtain ⟨r, hr, hl⟩ := ih h hus fun x hx v hv => hafter x hx v (List.mem_cons_of_mem _ hv)
      refine ⟨r, hr, hl.congr fun t ht => ?_⟩
      have hne : t ≠ u := fun heq => ho (heq ▸ ht)
      simp [hne]

theorem longestOf_none {us : List TrackId} (hus : us.Pairwise (· < ·)) :
    ((∀ t ∈ us, a.m.tracks[t].opened = false) ∧ longestOf a us none = none) ∨
      ∃ r, longestOf a us none = some r ∧ a.LongestIn (· ∈ us) r := by
  induction us with
  | nil => exact .inl ⟨nofun, rfl⟩
  | cons u us ih =>
    obtain ⟨hu, hus⟩ := List.pairwise_cons.1 hus
    unfold longestOf
    split
    · next ho =>
      have hone : a.LongestIn (· = u) u :=
        ⟨rfl, ho, fun t ht _ => ht ▸ Nat.le_refl _, fun t ht _ hlow => absurd (ht ▸ hlow) (lt_irrefl u)⟩
      obtain ⟨r, hr, hl⟩ := longestOf_some hone hus fun x hx => hx ▸ hu
      exact .inr ⟨r, hr, hl.congr fun t _ => List.mem_cons⟩
    · next ho =>
      obtain ⟨hnone, hr⟩ | ⟨r, hr, hl⟩ := ih hus
      · exact .inl ⟨List.forall_mem_cons.2 ⟨Bool.eq_false_iff.2 ho, hnone⟩, hr⟩
      · refine .inr ⟨r, hr, hl.congr fun t ht => ?_⟩
        have hne : t ≠ u := fun heq => ho (heq ▸ ht)
        simp [hne]

/-- R196: the results are those of the longest opened track, or 0, 0 and none with no track opened. -/
theorem acctResult_cases (a : Acct P) (g : SongTable) :
    ((∀ t : TrackId, a.m.tracks[t].opened = false) ∧ acctResult a g = { g with maxTicks := 0, longest := 0, loopStartTick := none }) ∨
      ∃ r, a.LongestIn (fun _ => True) r ∧
        acctResult a g = { g with maxTicks := a.length[r], longest := r, loopStartTick := a.cycle[r] } := by
  unfold acctResult
  obtain ⟨hnone, hr⟩ | ⟨r, hr, hl⟩ := longestOf_none (a := a) (List.pairwise_lt_finRange Config.maxTracks)
  · exact .inl ⟨fun t => hnone t (List.mem_finRange t), by rw [hr]⟩
  · exact .inr ⟨r, hl.congr fun t _ => by simp, by rw [hr]⟩

/-! ### O59 -/

/-- Settles O59: a track's command loop by the branches of `acctExec`, the turns and ticks by their equations, the stamp by what it leaves
of each entry, and the results by the longest opened track. -/
theorem accountingStampsAndResults : Obligations.accounting_stamps_and_results := by
  refine ⟨fun P a => ?_, fun P s song tables => ?_, fun P s e he => ?_, fun P a g => ?_⟩
  · refine ⟨fun n h => acctExec_halts n h, fun hdone hlive hrest => ⟨acctExec_exhausted ⟨hdone, hlive, hrest⟩, fun n e he => ?_⟩,
      fun u => ⟨acctTickZero_eq u a, ?_⟩, acctLoop_over, fun u hu => ⟨acctLoop_exhausted hu, acctLoop_ticks hu⟩⟩
    · have h : a.Runs := ⟨hdone, hlive, hrest⟩
      refine ⟨fun hk heq => ?_, fun hk hne => ?_, fun hk => ⟨fun m' hx => ?_, fun hx => ?_, fun hx => ?_, fun hx => ?_⟩⟩
      · exact (acctExec_known n h he hk).trans (if_pos heq)
      · exact (acctExec_known n h he hk).trans (if_neg hne)
      · rw [acctExec_executes n h he hk hx, reopened_eq]
      · exact acctExec_faults n h he hk hx
      · exact acctExec_faults n h he hk hx
      · exact acctExec_faults n h he hk hx
    · split
      · next hrun => exact acctTrack_counts hrun
      · next hidle => exact acctTrack_idle hidle
  · refine ⟨rfl, fun t => ⟨acctStart_track .., acctStart_done .., ?_, ?_⟩, fun b g hb hg => ?_, fun e he => ?_⟩
    · simp [acctStart]
    · simp [acctStart]
    · exact account_of_pass hb hg
    · exact account_of_pass_error he
  · refine ⟨s.stamp_frame, ?_, fun t p hne => ?_⟩
    · rw [s.stamp_fetch, he]; rfl
    · rw [s.stamp_entryAt, if_neg]
      rintro ⟨rfl, rfl⟩
      simp at hne
  · obtain ⟨hnone, hr⟩ | ⟨l, hl, hr⟩ := acctResult_cases a g
    · simp only [hr]
      exact ⟨trivial, fun _ => ⟨trivial, trivial, trivial⟩, fun t ht => absurd ht (by rw [hnone t]; nofun)⟩
    · simp only [hr]
      refine ⟨trivial, fun hnone => absurd hl.opened (by rw [hnone l]; nofun), fun t ht => ?_⟩
      exact ⟨hl.greatest t trivial ht, hl.opened, trivial, trivial, hl.lowest t trivial ht⟩

end Sys2Proof.Machine

end

/-! ## What a load error records (40_sequence_decoder.md R183, R192, R198, 60_exceptions.md R491, R493) -/

section

namespace Sys2Proof

/-! ### The decoder's errors (R137, R138, R182) -/

/-- Anything but the error `AccountLimit`, which the accounting pass alone raises (R197, R198). -/
def NotAccountLimit {α : Type} (x : DecodeResult α) : Prop := x ≠ .error .accountLimit

variable {α : Type}

theorem readByte_notAccountLimit (bs : List Byte) {k : Byte → List Byte → DecodeResult α} (hk : ∀ b r, NotAccountLimit (k b r)) :
    NotAccountLimit (readByte bs k) := by
  cases bs with
  | nil => nofun
  | cons b r => exact hk b r

theorem vlqLoop_notAccountLimit (groups v : Nat) (bs : List Byte) : NotAccountLimit (vlqLoop groups v bs) := by
  induction groups generalizing v bs with
  | zero => nofun
  | succ groups ih =>
    refine readByte_notAccountLimit bs fun b r => ?_
    split
    · nofun
    · exact ih _ _

theorem readVlq_notAccountLimit (bs : List Byte) {k : Nat → List Byte → DecodeResult α} (hk : ∀ n r, NotAccountLimit (k n r)) :
    NotAccountLimit (readVlq bs k) := by
  unfold readVlq
  split
  · next e he =>
    have hloop := vlqLoop_notAccountLimit 4 0 bs
    rw [he] at hloop
    exact fun h => hloop (by cases h; rfl)
  · exact hk _ _

theorem readField_notAccountLimit (f : Field) (bs : List Byte) {k : Int → List Byte → DecodeResult α}
    (hk : ∀ v r, NotAccountLimit (k v r)) : NotAccountLimit (readField f bs k) := by
  cases f with
  | u8 | s8 => exact readByte_notAccountLimit bs fun _ _ => hk _ _
  | u16 | s16 => exact readByte_notAccountLimit bs fun _ r => readByte_notAccountLimit r fun _ _ => hk _ _
  | u24 =>
    exact readByte_notAccountLimit bs fun _ r => readByte_notAccountLimit r fun _ r => readByte_notAccountLimit r fun _ _ => hk _ _
  | vlq => exact readVlq_notAccountLimit bs fun _ _ => hk _ _

theorem readFields_notAccountLimit (fs : List Field) (bs : List Byte) {k : List Int → List Byte → DecodeResult α}
    (hk : ∀ vs r, NotAccountLimit (k vs r)) : NotAccountLimit (readFields fs bs k) := by
  induction fs generalizing bs k with
  | nil => exact hk _ _
  | cons f fs ih => exact readField_notAccountLimit f bs fun _ r => ih r fun _ _ => hk _ _

theorem readFormat_notAccountLimit (ok : Int → Bool) (format : List Field) (bs : List Byte)
    {k : List Int → List Byte → DecodeResult α} (hk : ∀ vs r, NotAccountLimit (k vs r)) :
    NotAccountLimit (readFormat ok format bs k) := by
  cases format with
  | nil => exact hk _ _
  | cons f fs =>
    rw [readFormat_cons]
    refine readField_notAccountLimit f bs fun v r => ?_
    split
    · exact readFields_notAccountLimit fs r fun _ _ => hk _ _
    · nofun

theorem decodeControl_notAccountLimit (D : DecodeProfile) (op : Byte) (bs : List Byte) : NotAccountLimit (decodeControl D op bs) := by
  unfold decodeControl
  split
  · nofun
  · split
    · refine readFormat_notAccountLimit _ _ _ fun vs r => ?_
      split
      · nofun
      · unfold accept
        split <;> nofun
    · nofun

theorem decodeNote_notAccountLimit (op : Byte) (bs : List Byte) : NotAccountLimit (decodeNote op bs) :=
  readByte_notAccountLimit bs fun _ r => readVlq_notAccountLimit r fun _ _ => nofun

theorem decodeAt_notAccountLimit (D : DecodeProfile) (rs : Option Byte) (bs : List Byte) : NotAccountLimit (decodeAt D rs bs) := by
  have control (op : Byte) (bs : List Byte) {e : LoadErrorKind} (he : decodeControl D op bs = .error e) :
      NotAccountLimit (.error e : DecodeResult Decoded) := fun h =>
    decodeControl_notAccountLimit D op bs (by cases h; exact he)
  cases bs with
  | nil => nofun
  | cons b r =>
    unfold decodeAt
    dsimp only
    split
    · split
      · split
        · next e he => exact fun h => decodeNote_notAccountLimit b r (by cases h; exact he)
        · nofun
      · split
        · nofun
        · split
          · nofun
          · split
            · next he => exact control _ _ he
            · nofun
    · split
      · next he => exact control _ _ he
      · nofun

end Sys2Proof

end

section

namespace Sys2Proof.Machine

variable {P : Profile}

/-- The error records a track, an offset and the byte there, and is not `AccountLimit` (R493). -/
def LoadError.RecordedIn (rom : Memory) (e : LoadError) : Prop :=
  e.kind ≠ .accountLimit ∧ ∃ t p, e.track = some t ∧ e.offset = some p ∧ e.opcode = rom.read p

/-- What stops a load is `AccountLimit` without a place, an error with its place, or no load error at all (R197, R493). -/
def LoadStop.Recorded (rom : Memory) : LoadStop → Prop
  | .error e => e = ⟨.accountLimit, none, none, none⟩ ∨ e.RecordedIn rom
  | .fault _ => True
  | .refused _ => True

/-! ### The walk (R183) -/

/-- An error that a move of the walk raises records its place. -/
def WalkOut.Recorded (rom : Memory) : WalkOut → Prop
  | .error e => e.RecordedIn rom
  | .more _ => True
  | .done _ => True

theorem Walk.raise_recorded (w : Walk) (rom : Memory) {k : LoadErrorKind} (hk : k ≠ .accountLimit) : (w.raise rom k).Recorded rom :=
  ⟨hk, w.t, w.p, rfl, rfl, rfl⟩

theorem pathDone_recorded (w : Walk) (rom : Memory) : w.pathDone.Recorded rom := by
  unfold Walk.pathDone
  split
  · trivial
  · split <;> trivial

theorem follow_recorded (w : Walk) (rom : Memory) (d : Decoded) : (w.follow P rom d).Recorded rom := by
  have out : (w.raise rom .outOfBounds).Recorded rom := w.raise_recorded rom nofun
  have overflow : (w.raise rom .callStackOverflow).Recorded rom := w.raise_recorded rom nofun
  cases hd : d.cmd with
  | fine => simp only [Walk.follow, hd]; exact pathDone_recorded w rom
  | ret => simp only [Walk.follow, hd]; exact pathDone_recorded w rom
  | jump x =>
    simp only [Walk.follow, hd]
    split
    · exact out
    · trivial
  | call x =>
    simp only [Walk.follow, hd]
    split
    · exact out
    · split
      · exact overflow
      · trivial
  | _ => simp only [Walk.follow, hd]; trivial

theorem walkStep_recorded (w : Walk) (rom : Memory) : (w.step P rom).Recorded rom := by
  unfold Walk.step
  split
  · exact w.raise_recorded rom nofun
  · split
    · split
      · exact w.raise_recorded rom nofun
      · exact pathDone_recorded w rom
    · split
      · next k hk => exact w.raise_recorded rom fun h => decodeAt_notAccountLimit _ _ _ (h ▸ hk)
      · exact follow_recorded _ rom _

theorem walkLoop_recorded {rom : Memory} {n : Nat} {w : Walk} {e : LoadStop} (h : walkLoop P rom n w = .error e) : e.Recorded rom := by
  induction n generalizing w with
  | zero => cases h; trivial
  | succ n ih =>
    have hstep := walkStep_recorded (P := P) w rom
    unfold walkLoop at h
    cases hout : w.step P rom with rw [hout] at h hstep
    | more w' => exact ih h
    | done tables => cases h
    | error e => cases h; exact .inr hstep

theorem walk_recorded {song : Song} {e : LoadStop} (h : walk P song = .error e) : e.Recorded song.rom := by
  unfold walk at h
  split at h
  · cases h
  · exact walkLoop_recorded h

end Sys2Proof.Machine

end

/-! ## The ticks of a loaded table (40_sequence_decoder.md R193 to R197) -/

section

namespace Sys2Proof.Machine

variable {P : Profile} {song : Song} {tables : WalkTables} {a : Acct P}

/-! ### Stamping (R195) -/

theorem stampTicks_rising {ticks : List Nat} {n : Nat} (h : ticks.Pairwise (· < ·)) (hle : ∀ k ∈ ticks, k ≤ n) :
    (stampTicks ticks n).Pairwise (· < ·) := by
  unfold stampTicks
  split
  · exact h
  · next hn =>
    refine List.pairwise_append.2 ⟨h, List.pairwise_singleton _ _, fun k hk m hm => ?_⟩
    rw [List.mem_singleton.1 hm]
    exact Nat.lt_of_le_of_ne (hle k hk) fun heq => hn (heq ▸ hk)

/-- Stamping keeps the first tick. -/
theorem stampTicks_head? {ticks : List Nat} {n l : Nat} (h : ticks.head? = some l) : (stampTicks ticks n).head? = some l := by
  unfold stampTicks
  split
  · exact h
  · rw [List.head?_append, h]; rfl

/-- An entry after a stamp is the entry before, or the one stamped with `E`. -/
theorem State.stamp_entryAt_cases (s : State P) {u : TrackId} {p : Nat} {e : Entry} (he : s.stamp.entryAt u p = some e) :
    s.entryAt u p = some e ∨
      ∃ d, s.cur = u ∧ s.entryAt u p = some d ∧ e = { d with ticks := stampTicks d.ticks s.elapsed } := by
  rw [s.stamp_entryAt] at he
  split at he
  · next hat =>
    obtain ⟨d, hd, rfl⟩ := Option.map_eq_some_iff.1 he
    exact .inr ⟨d, hat.1, hd, rfl⟩
  · exact .inl he

/-- An entry keeps its first tick when the scratch state is stamped. -/
theorem State.stamp_keeps_head? (s : State P) {u : TrackId} {p l : Nat} {e : Entry} (he : s.entryAt u p = some e)
    (hl : e.ticks.head? = some l) : ∃ d, s.stamp.entryAt u p = some d ∧ d.ticks.head? = some l := by
  rw [s.stamp_entryAt, he]
  split
  · exact ⟨_, rfl, stampTicks_head? hl⟩
  · exact ⟨e, rfl, hl⟩

/-! ### Opened tracks stay opened (R247) -/

theorem TrackMove.opened {i : Instr} {p len depth : Nat} {x y : Track} (m : TrackMove i p len depth x y) : y.opened = x.opened := by
  cases m with
  | writes f hi hf => exact (hf.control x).1
  | _ => rfl

theorem Opening.opened {s : State P} {i : Instr} {base : Vector Track Config.maxTracks} (o : Opening s i base) {u : TrackId}
    (h : s.tracks[u].opened = true) : base[u].opened = true := by
  cases o with
  | none => exact h
  | opens v target hi =>
    rw [vec_set_fin]
    split
    · next hv =>
      subst hv
      rw [Track.openAt, if_pos h]
      exact h
    · exact h

theorem execute_keeps_opened {s t : State P} {e : Entry} (he : s.fetch = some e) (hx : execute e.cmd s = .next t) {u : TrackId}
    (h : s.tracks[u].opened = true) : t.tracks[u].opened = true := by
  obtain ⟨base, y, ho, hm, ht⟩ := execute_tracks he hx
  rw [ht, vec_set_fin]
  split
  · next hu =>
    subst hu
    rw [hm.opened]
    exact ho.opened h
  · exact ho.opened h

/-! ### The invariant of the pass -/

/-- The invariant of the pass for its results: tick sets rise, only opened tracks are stamped and wait, a done track is as long as its last
tick, and a known cycle began at the first tick of a command. -/
structure Acct.Accounted (song : Song) (tables : WalkTables) (a : Acct P) : Prop extends a.Sound song tables where
  rom : a.m.seqRom = song.rom
  rising : ∀ t p e, a.m.entryAt t p = some e → e.ticks.Pairwise (· < ·)
  stamped : ∀ t p e, a.m.entryAt t p = some e → e.ticks ≠ [] → a.m.tracks[t].opened = true
  waiting : ∀ t : TrackId, a.done[t] = false → a.m.tracks[t].opened = true
  covered : ∀ t p e, a.m.entryAt t p = some e → a.done[t] = true → ∀ k ∈ e.ticks, k ≤ a.length[t]
  cycleFirst : ∀ (t : TrackId) l, a.cycle[t] = some l → ∃ p e, a.m.entryAt t p = some e ∧ e.ticks.head? = some l

/-- A part of a load that succeeds ends as `Q` says, and one that stops records its error (R493). -/
def EndsRecorded {α : Type} (rom : Memory) (Q : α → Prop) : Except LoadStop α → Prop
  | .ok a => Q a
  | .error e => e.Recorded rom

/-- Closing a track at the current tick covers every tick of its list. -/
theorem Acct.Accounted.covered_close (h : a.Accounted song tables) (t : TrackId) (p : Nat) (e : Entry) (he : a.m.entryAt t p = some e)
    (hd : (a.done.set a.m.cur true)[t] = true) : ∀ k ∈ e.ticks, k ≤ (a.length.set a.m.cur a.m.elapsed)[t] := by
  intro k hk
  rw [vec_set_fin] at hd ⊢
  split
  · exact h.ticks t p e he k hk
  · next hne => rw [if_neg hne] at hd; exact h.covered t p e he hd k hk

theorem Acct.Accounted.waiting_close (h : a.Accounted song tables) (t : TrackId) (hd : (a.done.set a.m.cur true)[t] = false) :
    a.m.tracks[t].opened = true := by
  rw [vec_set_fin] at hd
  split at hd
  · cases hd
  · exact h.waiting t hd

theorem Acct.Accounted.settle (h : a.Accounted song tables) : a.settle.Accounted song tables := by
  have hsound := h.toSound.settle
  unfold Acct.settle at hsound ⊢
  split
  · next hs =>
    rw [if_pos hs] at hsound
    exact ⟨hsound, h.rom, h.rising, h.stamped, h.waiting_close, h.covered_close, h.cycleFirst⟩
  · exact h

/-- R193: the cycle began at the first tick of the command at the cursor. -/
theorem Acct.Accounted.closeCycle (h : a.Accounted song tables) {e : Entry} (he : a.m.fetch = some e) {first : Nat}
    (hfirst : e.ticks.head? = some first) (hne : first ≠ a.m.elapsed) : (a.closeCycle first).Accounted song tables := by
  have hle : first ≤ a.m.elapsed := h.ticks _ _ e he first (List.mem_of_head? hfirst)
  refine ⟨h.toSound.closeCycle (Nat.lt_of_le_of_ne hle hne), h.rom, h.rising, h.stamped, h.waiting_close, h.covered_close,
    fun u l hl => ?_⟩
  simp only [Acct.closeCycle, vec_set_fin] at hl
  split at hl
  · next hu => cases hl; subst hu; exact ⟨_, e, he, hfirst⟩
  · exact h.cycleFirst u l hl

theorem reopened_cases (before after : State P) (done : Vector Bool Config.maxTracks) (t : TrackId) :
    (after.tracks[t].opened = true ∧ (reopened before after done)[t] = false) ∨ (reopened before after done)[t] = done[t] := by
  rw [reopened_eq, vecOfFn_fin]
  split
  · next h => exact .inl ⟨h.2, rfl⟩
  · exact .inr rfl

/-- R192, R195: a track that is not done is stamped and executes its command. -/
theorem Acct.Accounted.executes (h : a.Accounted song tables) (hw : WalkClosed P song tables fun _ _ => False)
    (hcur : a.done[a.m.cur] = false) {e : Entry} {m' : State P} (he : a.m.stamp.fetch = some e)
    (hx : execute e.cmd a.m.stamp = .next m') :
    ({ a with m := m', done := reopened a.m m' a.done } : Acct P).Accounted song tables := by
  have hentry (u : TrackId) (p : Nat) : m'.entryAt u p = a.m.stamp.entryAt u p := entryAt_of_song (execute_song hx) u p
  have hopened {u : TrackId} (hu : a.m.tracks[u].opened = true) : m'.tracks[u].opened = true :=
    execute_keeps_opened he hx (by rw [a.m.stamp_tracks]; exact hu)
  refine ⟨h.toSound.executes hw he hx _, ?_, fun u p d hd => ?_, fun u p d hd hne => ?_, fun u hu => ?_, fun u p d hd hu => ?_,
    fun u l hl => ?_⟩
  · exact (execute_seqRom hx).trans (by rw [a.m.stamp_frame]; exact h.rom)
  · obtain hold | ⟨d, -, hold, rfl⟩ := a.m.stamp_entryAt_cases ((hentry u p).symm.trans hd)
    · exact h.rising u p d hold
    · exact stampTicks_rising (h.rising u p d hold) (h.ticks u p d hold)
  · obtain hold | ⟨d, rfl, -, -⟩ := a.m.stamp_entryAt_cases ((hentry u p).symm.trans hd)
    · exact hopened (h.stamped u p d hold hne)
    · exact hopened (h.waiting _ hcur)
  · obtain ⟨hnew, -⟩ | hsame := reopened_cases a.m m' a.done u
    · exact hnew
    · exact hopened (h.waiting u (hsame.symm.trans hu))
  · have hdone : a.done[u] = true := by
      obtain ⟨-, hfalse⟩ | hsame := reopened_cases a.m m' a.done u
      · exact absurd (hfalse.symm.trans hu) nofun
      · exact hsame.symm.trans hu
    obtain hold | ⟨d, rfl, -, -⟩ := a.m.stamp_entryAt_cases ((hentry u p).symm.trans hd)
    · exact h.covered u p d hold hdone
    · exact absurd (hcur.symm.trans hdone) nofun
  · obtain ⟨p, d, hd, hhead⟩ := h.cycleFirst u l hl
    obtain ⟨d', hd', hhead'⟩ := a.m.stamp_keeps_head? hd hhead
    exact ⟨p, d', (hentry u p).trans hd', hhead'⟩

theorem Acct.Accounted.raise (h : a.Accounted song tables) {k : LoadErrorKind} (hk : k ≠ .accountLimit) :
    (a.raise k).Recorded song.rom :=
  .inr ⟨hk, a.m.cur, a.m.track.cursor, rfl, rfl, by rw [← h.rom]⟩

theorem Acct.Accounted.stopOf (h : a.Accounted song tables) (f : Fault) : (a.stopOf f).Recorded song.rom := by
  cases f with
  | callStackOverflow | returnUnderflow | badLoopEnd => exact h.raise nofun
  | noCommand | unsoundChannel | walkDiverged => trivial

/-- R192: a track's command loop keeps the invariant or records its error, whatever is left before EXEC_LIMIT. -/
theorem acctExec_accounted (hw : WalkClosed P song tables fun _ _ => False) {n : Nat} (h : a.Accounted song tables) :
    EndsRecorded song.rom (Acct.Accounted song tables) (acctExec n a) := by
  induction n generalizing a with
  | zero =>
    unfold acctExec
    split
    · exact h.settle
    · exact h.raise nofun
  | succ n ih =>
    unfold acctExec
    split
    · exact h.settle
    · next hgo =>
      have hcur : a.done[a.m.cur] = false := Bool.eq_false_iff.2 fun hd => hgo (by simp [hd])
      dsimp only
      split
      · trivial
      · next e he =>
        split
        · next hcycle =>
          split
          · exact h.raise nofun
          · next hne =>
            refine h.closeCycle he ?_ hne
            cases hticks : e.ticks with
            | nil => exact absurd hticks hcycle.1
            | cons k ks => rfl
        · have hstamped : a.m.stamp.fetch = some { e with ticks := stampTicks e.ticks a.m.elapsed } := by rw [a.m.stamp_fetch, he]; rfl
          cases hx : execute e.cmd a.m.stamp with
          | next m' => exact ih (h.executes hw hcur hstamped hx)
          | fault f => exact h.stopOf f
          | refused r => trivial

/-! ### The turns of the tracks and the ticks (R192, R275) -/

theorem overTracks_endsRecorded {rom : Memory} {Q : Acct P → Prop} {f : TrackId → Acct P → Except LoadStop (Acct P)}
    (hf : ∀ u a, Q a → EndsRecorded rom Q (f u a)) (us : List TrackId) (h : Q a) : EndsRecorded rom Q (overTracks f us a) := by
  induction us generalizing a with
  | nil => exact h
  | cons u us ih =>
    have hu := hf u a h
    unfold overTracks
    cases hx : f u a with rw [hx] at hu
    | ok b => exact ih hu
    | error e => exact hu

theorem Acct.Accounted.turn (h : a.Accounted song tables) (u : TrackId) :
    ({ a with m := { a.m with cur := u } } : Acct P).Accounted song tables :=
  ⟨h.toSound.turn u, h.rom, h.rising, h.stamped, h.waiting, h.covered, h.cycleFirst⟩

theorem Acct.Accounted.countRest (h : a.Accounted song tables) (u : TrackId) :
    ({ a with m := a.m.setTrack u a.m.tracks[u].countRest } : Acct P).Accounted song tables := by
  have hopened (v : TrackId) : (a.m.setTrack u a.m.tracks[u].countRest).tracks[v].opened = a.m.tracks[v].opened := by
    rw [State.setTrack_at]
    split
    · next huv => subst huv; rfl
    · rfl
  exact ⟨h.toSound.countRest u, h.rom, h.rising, fun v p e he hne => (hopened v).trans (h.stamped v p e he hne),
    fun v hv => (hopened v).trans (h.waiting v hv), h.covered, h.cycleFirst⟩

theorem Acct.Accounted.tick (h : a.Accounted song tables) :
    ({ a with m := { a.m with elapsed := a.m.elapsed + 1 } } : Acct P).Accounted song tables :=
  ⟨h.toSound.tick, h.rom, h.rising, h.stamped, h.waiting, h.covered, h.cycleFirst⟩

theorem acctTickZero_accounted (hw : WalkClosed P song tables fun _ _ => False) (u : TrackId) (h : a.Accounted song tables) :
    EndsRecorded song.rom (Acct.Accounted song tables) (acctTickZero u a) := by
  unfold acctTickZero
  split
  · exact h
  · exact acctExec_accounted hw (h.turn u)

theorem acctTrack_accounted (hw : WalkClosed P song tables fun _ _ => False) (u : TrackId) (h : a.Accounted song tables) :
    EndsRecorded song.rom (Acct.Accounted song tables) (acctTrack u a) := by
  unfold acctTrack
  split
  · dsimp only
    split
    · exact acctExec_accounted hw ((h.countRest u).turn u)
    · exact (h.countRest u).turn u
  · exact h

/-- R197: the ticks end with every track done, or at an error. -/
theorem acctLoop_accounted (hw : WalkClosed P song tables fun _ _ => False) {n : Nat} (h : a.Accounted song tables) :
    EndsRecorded song.rom (fun b => b.Accounted song tables ∧ ∀ t : TrackId, b.done[t] = true) (acctLoop n a) := by
  induction n generalizing a with
  | zero =>
    unfold acctLoop
    split
    · next hall => exact ⟨h, a.allDone_iff.1 hall⟩
    · exact .inl rfl
  | succ n ih =>
    unfold acctLoop
    split
    · next hall => exact ⟨h, a.allDone_iff.1 hall⟩
    · have hpass := overTracks_endsRecorded (fun u _ hb => acctTrack_accounted hw u hb) (List.finRange Config.maxTracks) h.tick
      dsimp only
      cases hx : overTracks acctTrack (List.finRange Config.maxTracks) { a with m := { a.m with elapsed := a.m.elapsed + 1 } } with
        rw [hx] at hpass
      | ok b => exact ih hpass
      | error e => exact hpass

/-! ### The pass at its start and its result (R191, R196) -/

theorem acctStart_accounted (hw : WalkClosed P song tables fun _ _ => False) (s : State P) :
    (acctStart s song tables).Accounted song tables := by
  have unstamped {u : TrackId} {p : Nat} {e : Entry} (he : (acctStart s song tables).m.entryAt u p = some e) : e.ticks = [] := by
    rw [acctStart_entryAt] at he
    obtain ⟨w, -, rfl⟩ := Option.map_eq_some_iff.1 he
    rfl
  refine ⟨acctStart_sound hw s, rfl, fun u p e he => ?_, fun u p e he hne => absurd (unstamped he) hne, fun u hu => ?_,
    fun u p e he _ k hk => ?_, fun u l hl => ?_⟩
  · rw [unstamped he]; exact .nil
  · rw [acctStart_done] at hu
    simpa using hu
  · rw [unstamped he] at hk; cases hk
  · simp [acctStart] at hl

/-- The ticks of a table as a load installs it (R193, R195, R196): rising and within `MaxTicks`, and a cycle begins before `MaxTicks` at the
first tick of a command of the longest track. -/
structure SongTable.TicksWithin (g : SongTable) : Prop where
  rising : ∀ (t : TrackId) p e, lookupCmd g.cmds[t] p = some e → e.ticks.Pairwise (· < ·)
  within : ∀ (t : TrackId) p e, lookupCmd g.cmds[t] p = some e → ∀ k ∈ e.ticks, k ≤ g.maxTicks
  rewinds : ∀ l, g.loopStartTick = some l → l < g.maxTicks ∧ ∃ p e, lookupCmd g.cmds[g.longest] p = some e ∧ e.ticks.head? = some l

theorem Acct.Accounted.result (h : a.Accounted song tables) (hdone : ∀ t : TrackId, a.done[t] = true) {g : SongTable}
    (hg : a.m.song = some g) : (acctResult a g).TicksWithin := by
  have hentry (u : TrackId) (p : Nat) : a.m.entryAt u p = lookupCmd g.cmds[u] p := entryAt_of_some hg u p
  obtain ⟨hnone, hr⟩ | ⟨r, hl, hr⟩ := acctResult_cases a g <;> rw [hr]
  · refine ⟨fun t p e he => h.rising t p e ((hentry t p).trans he), fun t p e he k hk => ?_, nofun⟩
    have ho := h.stamped t p e ((hentry t p).trans he) (List.ne_nil_of_mem hk)
    rw [hnone t] at ho
    cases ho
  · refine ⟨fun t p e he => h.rising t p e ((hentry t p).trans he), fun t p e he k hk => ?_, fun l hc => ⟨h.cycles r l hc, ?_⟩⟩
    · have ho := h.stamped t p e ((hentry t p).trans he) (List.ne_nil_of_mem hk)
      exact (h.covered t p e ((hentry t p).trans he) (hdone t) k hk).trans (hl.greatest t trivial ho)
    · obtain ⟨p, e, he, hhead⟩ := h.cycleFirst r l hc
      exact ⟨p, e, (hentry r p).symm.trans he, hhead⟩

theorem account_endsRecorded (hw : WalkClosed P song tables fun _ _ => False) (s : State P) :
    EndsRecorded song.rom SongTable.TicksWithin (account s song tables) := by
  have hzero := overTracks_endsRecorded (fun u _ hb => acctTickZero_accounted hw u hb) (List.finRange Config.maxTracks)
    (acctStart_accounted hw s)
  unfold account
  cases hx : overTracks acctTickZero (List.finRange Config.maxTracks) (acctStart s song tables) with rw [hx] at hzero
  | error e => exact hzero
  | ok b =>
    have hloop := acctLoop_accounted (n := P.accountLimit) hw hzero
    dsimp only
    cases hy : acctLoop P.accountLimit b with rw [hy] at hloop
    | error e => exact hloop
    | ok c =>
      obtain ⟨hacc, hdone⟩ := hloop
      dsimp only
      split
      · trivial
      · next g hg => exact hacc.result hdone hg

theorem load_endsRecorded (s : State P) (song : Song) : EndsRecorded song.rom SongTable.TicksWithin (load s song) := by
  unfold load
  cases hx : walk P (song.trim P) with
  | error e => exact walk_recorded (song := song.trim P) hx
  | ok tables => exact account_endsRecorded ((walk_closed P (song.trim P)).1 tables hx) s

/-- Settles O60: the invariant of the pass when every track is done, and the place that each error of a load is raised at. -/
theorem loadedTicksAndRecordedErrors : Obligations.loaded_ticks_and_recorded_errors := by
  refine ⟨fun P s song g hload => ?_, fun P s song e hload => ?_⟩
  · have h := load_endsRecorded s song
    rw [hload] at h
    exact ⟨fun t p e he => ⟨h.rising t p e he, h.within t p e he⟩, h.rewinds⟩
  · have h := load_endsRecorded s song
    rw [hload] at h
    exact h

end Sys2Proof.Machine

end

/-! ## What each command answers (41_track_commands.md R220 to R250) -/

section

namespace Sys2Proof.Machine

variable {P : Profile} {s : State P} {e : Entry}

/-! ### Operands (R221, R223, R225 to R227, R240) -/

theorem clamp_eq_max_min {lo hi : Int} (h : lo ≤ hi) (x : Int) : clamp lo hi x = max lo (min hi x) := by
  unfold clamp
  split <;> [skip; split] <;> omega

theorem panOf_eq (x : Byte) : panOf x = max (-64) (min 63 ((x.toNat : Int) - 64)) := clamp_eq_max_min (by decide) _

theorem transposedKey_eq (key : Nat) (transpose : Byte) :
    transposedKey key transpose = (max 0 (min 127 ((key : Int) + transpose.toInt))).toNat :=
  congrArg Int.toNat (clamp_eq_max_min (by decide) _)

theorem transposedKey_cast (key : Nat) (transpose : Byte) :
    (transposedKey key transpose : Int) = max 0 (min 127 ((key : Int) + transpose.toInt)) := by
  rw [transposedKey_eq, Int.toNat_of_nonneg (le_max_left ..)]

theorem noteDuration_eq (n : Nat) : noteDuration n = ((max n 1 : Nat) : Int) := by
  rw [Nat.cast_max]
  rfl

theorem lfoTargetOf_eq (x : Byte) :
    lfoTargetOf x = if x = 0#8 then .pitch else if x = 1#8 then .volume else if x = 2#8 then .pan else .off := by
  simp only [lfoTargetOf, BitVec.toNat_eq, BitVec.toNat_ofNat]

/-! ### O10 to O12 -/

/-- Settles O10: each of the five commands retires with one register written. -/
theorem restVoiceVolumeExpressionPanResult : Obligations.rest_voice_volume_expression_pan_result := by
  intro s e n v x he
  rw [← panOf_eq]
  exact ⟨retire_of_fetch he fun t => { t with rest := n },
    retire_of_fetch he fun t => { t with voice := v },
    retire_of_fetch he fun t => { t with volume := sevenBit x },
    retire_of_fetch he fun t => { t with expression := sevenBit x },
    retire_of_fetch he fun t => { t with pan := panOf x }⟩

/-- Settles O11: each of the eight commands retires with one register or one override written. -/
theorem pitchPriorityEnvelopeResult : Obligations.pitch_priority_envelope_result := by
  intro s e x he
  exact ⟨retire_of_fetch he fun t => { t with pitchBend := x },
    retire_of_fetch he fun t => { t with bendRange := x },
    retire_of_fetch he fun t => { t with transpose := x },
    retire_of_fetch he fun t => { t with priority := x },
    retire_of_fetch he fun t => { t with atkOvr := some x },
    retire_of_fetch he fun t => { t with decOvr := some x },
    retire_of_fetch he fun t => { t with susOvr := some x },
    retire_of_fetch he fun t => { t with relOvr := some x }⟩

/-- Settles O12: the LFO commands retire with one register written, and `tempo` from the state with the engine register written. -/
theorem lfoRegisterAndTempoResult : Obligations.lfo_register_and_tempo_result := by
  intro s e x y he
  rw [← lfoTargetOf_eq]
  exact ⟨retire_of_fetch he fun t => { t with lfoDepth := x },
    retire_of_fetch he fun t => { t with lfoSpeed := x },
    retire_of_fetch he fun t => { t with lfoRange := x },
    retire_of_fetch he fun t => { t with lfoDelay := y },
    retire_of_fetch he fun t => { t with lfoTarget := lfoTargetOf x },
    retire_of_fetch (s := { s with tempo := y }) he id⟩

/-! ### Control transfer (R243 to R246) -/

theorem execCall_of_fetch (he : s.fetch = some e) (hd : s.track.stack.length < P.stackDepth) (target : Off24) :
    execCall target s =
      .next (s.setTrack s.cur
        { s.track with stack := .call (s.track.cursor + e.len) :: s.track.stack, cursor := target.toNat }) := by
  rw [execCall, if_neg (Nat.not_le.2 hd), withLen_of_fetch he]

theorem execCall_full (hd : P.stackDepth ≤ s.track.stack.length) (target : Off24) :
    execCall target s = .fault .callStackOverflow := if_pos hd

theorem execLoop_of_fetch (he : s.fetch = some e) (hd : s.track.stack.length < P.stackDepth) (count : Byte) :
    execLoop count s =
      .next (s.setTrack s.cur
        { s.track with
          stack := .loop (s.track.cursor + e.len) count.toNat :: s.track.stack
          cursor := s.track.cursor + e.len }) := by
  rw [execLoop, if_neg (Nat.not_le.2 hd), withLen_of_fetch he]

theorem execLoop_full (hd : P.stackDepth ≤ s.track.stack.length) (count : Byte) :
    execLoop count s = .fault .callStackOverflow := if_pos hd

theorem execRet_of_call {r : Nat} {rest : List StackEntry} (hs : s.track.stack = .call r :: rest) :
    execRet s = .next (s.setTrack s.cur { s.track with stack := rest, cursor := r }) := by
  simp only [execRet, hs]

theorem execRet_underflow (hs : ∀ r rest, s.track.stack ≠ .call r :: rest) : execRet s = .fault .returnUnderflow := by
  unfold execRet
  split
  · next r rest htop => exact absurd htop (hs r rest)
  · rfl

theorem execLoopend_of_loop (he : s.fetch = some e) {body remaining : Nat} {rest : List StackEntry}
    (hs : s.track.stack = .loop body remaining :: rest) :
    execLoopend s =
      .next (s.setTrack s.cur
        (if remaining = 0 then { s.track with cursor := body }
        else if remaining = 1 then { s.track with stack := rest, cursor := s.track.cursor + e.len }
        else { s.track with stack := .loop body (remaining - 1) :: rest, cursor := body })) := by
  match remaining with
  | 0 => simp only [execLoopend, hs, if_pos]
  | 1 => simp only [execLoopend, hs, retire_of_fetch he, Nat.one_ne_zero, if_true, if_false]
  | r + 2 =>
    have hne : r + 2 ≠ 1 := by omega
    simp only [execLoopend, hs, Nat.succ_ne_zero, hne, if_false, Nat.add_succ_sub_one]

theorem execLoopend_bad (hs : ∀ b r rest, s.track.stack ≠ .loop b r :: rest) : execLoopend s = .fault .badLoopEnd := by
  unfold execLoopend
  split
  · next b rest htop => exact absurd htop (hs b 0 rest)
  · next b rest htop => exact absurd htop (hs b 1 rest)
  · next b r rest htop => exact absurd htop (hs b (r + 2) rest)
  · rfl

/-- Settles O15: each command on a stack that lets it go on, and on one that stops it. -/
theorem jumpCallReturnLoopResult : Obligations.jump_call_return_loop_result :=
  ⟨fun _ _ => rfl, fun _ _ x he hd => execCall_of_fetch he hd x, fun _ x hd => execCall_full hd.ge x,
    fun _ _ _ hs => execRet_of_call hs, fun _ hs => execRet_underflow hs, fun _ _ n he hd => execLoop_of_fetch he hd n,
    fun _ n hd => execLoop_full hd.ge n, fun _ _ _ _ _ he hs => execLoopend_of_loop he hs, fun _ hs => execLoopend_bad hs⟩

/-! ### O16 -/

theorem execTrackOpen_of_fetch (he : s.fetch = some e) (track : TrackId) (target : Off24) :
    execTrackOpen track target s =
      .next ((s.setTrack track (s.tracks[track].openAt target)).setTrack s.cur
        { (s.setTrack track (s.tracks[track].openAt target)).track with cursor := s.track.cursor + e.len }) :=
  withLen_of_fetch he _

theorem Track.openAt_eq (x : Track) (target : Off24) :
    x.openAt target =
      if x.opened = false then { Track.reset none with opened := true, stopped := false, cursor := target.toNat } else x := by
  unfold Track.openAt
  cases x.opened <;> rfl

/-- The register file of any track after an opening: the opened track's if it was never opened, else as it was (R247). -/
theorem State.opened_at (s : State P) (i u : TrackId) (target : Off24) :
    (s.setTrack i (s.tracks[i].openAt target)).tracks[u] =
      if u = i ∧ s.tracks[u].opened = false then
        { Track.reset none with opened := true, stopped := false, cursor := target.toNat }
      else s.tracks[u] := by
  rw [State.setTrack_at]
  by_cases hi : i = u
  · subst hi
    simp only [if_true, true_and, Track.openAt_eq]
  · rw [if_neg hi, if_neg fun h => hi h.1.symm]

/-- Settles O16: the opener's cursor is written over the tracks that the opening left (log 26). -/
theorem trackOpenResult : Obligations.track_open_result := by
  intro s e i x he
  refine ⟨_, execTrackOpen_of_fetch he i x, rfl, fun u => ?_⟩
  dsimp only
  rw [← State.opened_at, State.setTrack_at]
  by_cases hu : s.cur = u
  · subst hu
    rw [if_pos rfl, if_pos rfl]
    rfl
  · rw [if_neg hu, if_neg (Ne.symm hu)]

/-! ### O14 -/

theorem Channel.isTieOf_iff (ch : Channel) (t : TrackId) (k : Nat) :
    ch.isTieOf t k = true ↔ ch.owner = some t ∧ ch.key = k ∧ ch.durLeft = -1 ∧ ch.state ≠ .releasing ∧ ch.state ≠ .dead := by
  simp only [Channel.isTieOf, Bool.and_eq_true, decide_eq_true_eq, Channel.sounding_iff, and_assoc, and_comm (a := ch.state ≠ .dead)]

/-- What an end of tie does to a channel (R223, R318). -/
theorem Channel.endTie_eq (ch : Channel) (t : TrackId) (k : Nat) :
    (if ch.isTieOf t k then ch.release else ch) =
      if ch.owner = some t ∧ ch.key = k ∧ ch.durLeft = -1 ∧ ch.state ≠ .releasing ∧ ch.state ≠ .dead then
        { ch with state := .releasing }
      else ch := by
  simp only [Channel.isTieOf_iff]
  split
  · next h =>
    obtain ⟨-, -, -, hrel, hdead⟩ := h
    exact if_pos (ch.sounding_iff.2 ⟨hdead, hrel⟩)
  · rfl

/-- What a finish of track `t` does to a channel (R249, R318). -/
theorem Channel.finish_eq (ch : Channel) (t : TrackId) :
    (if ch.owner = some t then ch.release else ch) =
      if ch.owner = some t ∧ ch.state ≠ .releasing ∧ ch.state ≠ .dead then { ch with state := .releasing } else ch := by
  by_cases ho : ch.owner = some t
  · simp only [ho, if_true, true_and, Channel.release, Channel.sounding_iff, and_comm (a := ch.state ≠ .dead)]
  · rw [if_neg ho, if_neg fun h => ho h.1]

/-- Settles O14: the two commands' channel maps, one channel at a time. -/
theorem endOfTieAndFinishResult : Obligations.end_of_tie_and_finish_result := by
  refine ⟨fun s e key he => ?_, fun s => ?_⟩
  · simp only [← transposedKey_cast, Int.natCast_inj, ← Channel.endTie_eq]
    exact retire_of_fetch (s := s.mapChannels _) he id
  · simp only [← Channel.finish_eq]
    rfl

/-! ### O17 -/

/-- The reference map's entries of 0xB0 to 0xBD: a variable operation of a `u8` and an `s16` field (R141). -/
theorem referenceCtrlMap_varOp {op : Byte} (hlo : 0xB0 ≤ op.toNat) (hhi : op.toNat ≤ 0xBD) :
    ∃ kind : CmdKind, referenceCtrlMap op = some ⟨kind, [.u8, .s16]⟩ ∧ (∀ tracks v, kind.firstOk tracks v = true) ∧
      ∀ v x, ∃ i, kind.build [v, x] = some i ∧ i.isVarOp = true := by
  unfold referenceCtrlMap
  generalize op.toNat = n at hlo hhi
  interval_cases n <;> exact ⟨_, rfl, fun _ _ => rfl, fun _ _ => ⟨_, rfl, rfl⟩⟩

theorem accept_strict_varOp {i : Instr} (h : i.isVarOp = true) (r : List Byte) : accept true i r = .error .unsupported := by
  simp only [accept, h, Bool.and_self, if_true]

/-- Settles O17: each operation retires with nothing written, and STRICT_VAROPS refuses what every entry of theirs builds. -/
theorem varOpResult : Obligations.var_op_result := by
  refine ⟨fun s e v imm i he hi => ?_, fun op v lo hi rest hlo hhi => ?_⟩
  · fin_cases hi <;> exact retire_of_fetch he id
  · obtain ⟨kind, hentry, hfirst, hbuild⟩ := referenceCtrlMap_varOp hlo hhi
    obtain ⟨i, hi, hvar⟩ := hbuild v.toNat (leHalf lo hi).toInt
    rw [decodeControl_entry (D := { DecodeProfile.reference with strictVarops := true }) hentry (referenceCtrlMap_fits hentry),
      readFormat_cons, readField_u8, if_pos (hfirst _ _)]
    show (match kind.build [_, _] with | none => _ | some i => accept true i rest) = _
    rw [hi]
    exact accept_strict_varOp hvar rest

/-! ### O18 -/

/-- Settles O18: a fetched command answers a next state whatever its shape, but for the four that test the stack first. -/
theorem commandCompletesOrStackError : Obligations.command_completes_or_stack_error := by
  intro i s e he
  rw [exec_eq_execute]
  cases commandShape Profile.reference i with
  | register f g hx => exact .inl ⟨_, (hx s).trans (retire_of_fetch (s := { s with tempo := g s.tempo }) he f)⟩
  | note key velocity dur hx => exact .inl ⟨_, (hx s).trans (noteOn_of_fetch he key velocity dur)⟩
  | endOfTie key hx => exact .inl ⟨_, (hx s).trans (retire_of_fetch (s := s.mapChannels _) he id)⟩
  | trackOpen u target hi => subst hi; exact .inl ⟨_, execTrackOpen_of_fetch he u target⟩
  | jump target hi => subst hi; exact .inl ⟨_, rfl⟩
  | call target hi =>
    subst hi
    obtain hd | hd := Nat.lt_or_ge s.track.stack.length Profile.reference.stackDepth
    · exact .inl ⟨_, execCall_of_fetch he hd target⟩
    · exact .inr (.inl ⟨execCall_full hd target, hd, .inl ⟨target, rfl⟩⟩)
  | loop count hi =>
    subst hi
    obtain hd | hd := Nat.lt_or_ge s.track.stack.length Profile.reference.stackDepth
    · exact .inl ⟨_, execLoop_of_fetch he hd count⟩
    · exact .inr (.inl ⟨execLoop_full hd count, hd, .inr ⟨count, rfl⟩⟩)
  | loopend hi =>
    subst hi
    by_cases hs : ∃ b r rest, s.track.stack = .loop b r :: rest
    · obtain ⟨b, r, rest, hs⟩ := hs
      exact .inl ⟨_, execLoopend_of_loop he hs⟩
    · have hbad : ∀ b r rest, s.track.stack ≠ .loop b r :: rest := fun b r rest h => hs ⟨b, r, rest, h⟩
      exact .inr (.inr (.inr ⟨execLoopend_bad hbad, rfl, hbad⟩))
  | ret hi =>
    subst hi
    by_cases hs : ∃ r rest, s.track.stack = .call r :: rest
    · obtain ⟨r, rest, hs⟩ := hs
      exact .inl ⟨_, execRet_of_call hs⟩
    · have hempty : ∀ r rest, s.track.stack ≠ .call r :: rest := fun r rest h => hs ⟨r, rest, h⟩
      exact .inr (.inr (.inl ⟨execRet_underflow hempty, rfl, hempty⟩))
  | fine hi => subst hi; exact .inl ⟨_, rfl⟩

end Sys2Proof.Machine

end

/-! ## A note-on and the bank it reads (20_memory.md R104 to R106, R113, 41_track_commands.md R221) -/

section

namespace Sys2Proof.Machine

variable {P : Profile} {s : State P} {i : Instrument}

/-! ### The bank port and the sample regions (R104, R106, R113) -/

theorem Region.inRange_iff (g : Region) :
    g.inRange = true ↔ g.addr < 2 ^ 32 ∧ 1 ≤ g.length ∧ g.length ≤ 2 ^ 31 ∧ 1 ≤ g.rate ∧ g.rate ≤ 2 ^ 20 := by
  simp only [Region.inRange, Bool.and_eq_true, decide_eq_true_eq, and_assoc, Nat.reducePow]

theorem Instrument.inRange_iff (i : Instrument) : i.inRange = true ↔ recordInRange i := by
  have hkey : (match i.fixedKey with | none => true | some k => decide (k < 128)) = true ↔ ∀ k, i.fixedKey = some k → k ≤ 127 := by
    cases i.fixedKey with
    | none => simp
    | some k => simp [Nat.lt_succ_iff]
  have hregion : (match i.payload with | .pcm g => g.inRange | _ => true) = true ↔ ∀ g, i.payload = .pcm g → g.inRange = true := by
    cases i.payload <;> simp
  simp only [Instrument.inRange, Bool.and_eq_true, decide_eq_true_eq, recordInRange, ← Region.inRange_iff, and_assoc]
  exact and_congr Nat.lt_succ_iff (and_congr hkey hregion)

theorem bankLookup_iff (bank : List BankEntry) (voice key : Nat) (i : Instrument) :
    bankLookup bank voice key = some i ↔
      voice < 2 ^ 28 ∧ key < 128 ∧ findInst bank voice key = some i ∧ i.inRange = true := by
  constructor
  · intro h
    obtain ⟨hvoice, hkey, hrange, hfind⟩ := bankLookup_some h
    exact ⟨hvoice, hkey, hfind, hrange⟩
  · rintro ⟨hvoice, hkey, hfind, hrange⟩
    have hpair : voice < 268435456 ∧ key < 128 := ⟨hvoice, hkey⟩
    rw [bankLookup, if_pos hpair, hfind]
    exact if_pos hrange

theorem Instrument.fits_pcm {g : Region} (h : i.payload = .pcm g) (rom : Memory) :
    i.fits rom = true ↔ g.addr + g.bytes ≤ sampleLen rom := by
  simp only [Instrument.fits, h, Region.fits, decide_eq_true_eq]

theorem Instrument.fits_of_not_pcm (h : i.cls ≠ .pcm) (rom : Memory) : i.fits rom = true := by
  unfold Instrument.cls at h
  unfold Instrument.fits
  cases hp : i.payload with
  | pcm g => rw [hp] at h; exact absurd rfl h
  | square | wave | noise => rfl

/-! ### Allocation reads no track register but the priorities (R441) -/

theorem priorityOf_setTrack {t : TrackId} {x : Track} (h : x.priority = s.tracks[t].priority) (u : TrackId) :
    (s.setTrack t x).priorityOf u = s.priorityOf u := by
  simp only [State.priorityOf, State.setTrack_at]
  split
  · next htu => subst htu; rw [h]
  · rfl

theorem candidateOf_setTrack {t : TrackId} {x : Track} (h : x.priority = s.tracks[t].priority) (is : List P.Chan)
    (best : Option (P.Chan × TrackId)) : candidateOf (s.setTrack t x) is best = candidateOf s is best := by
  induction is generalizing best with
  | nil => rfl
  | cons i is ih => simp only [candidateOf, ih, ownerPrecedes, priorityOf_setTrack h, State.setTrack_channels]; rfl

theorem allocate_setTrack {t : TrackId} {x : Track} (h : x.priority = s.tracks[t].priority) (c : VoiceClass) (u : TrackId) :
    allocate (s.setTrack t x) c u = allocate s c u := by
  unfold allocate stealFrom
  simp only [candidateOf_setTrack h, priorityOf_setTrack h]
  rfl

/-! ### Starting a voice (R221, R494 to R496) -/

section

variable {key : Nat} (velocity : Nat) (dur : Int)

theorem startVoice_miss (h : bankLookup s.bank s.track.voice key = none) : startVoice s key velocity dur = s := by
  simp only [startVoice, h]

theorem startVoice_outside (h : bankLookup s.bank s.track.voice key = some i) (hf : i.fits s.sampleRom = false) :
    startVoice s key velocity dur = s := by
  simp only [startVoice, h, hf, Bool.false_eq_true, if_false]

theorem startVoice_full (h : bankLookup s.bank s.track.voice key = some i) (hf : i.fits s.sampleRom = true)
    (ha : allocate s i.cls s.cur = none) : startVoice s key velocity dur = s := by
  simp only [startVoice, h, hf, ha, if_true]

theorem startVoice_allocated (h : bankLookup s.bank s.track.voice key = some i) (hf : i.fits s.sampleRom = true) {c : P.Chan}
    (ha : allocate s i.cls s.cur = some c) :
    startVoice s key velocity dur =
      s.setChannel c (channelInit P s.sampleRom s.cur s.track key velocity dur i s.channels[c]) := by
  simp only [startVoice, h, hf, ha, if_true]

end

/-! ### O13 -/

/-- The executing track's registers after a note-on of `len` bytes: the LFO restarted and the cursor advanced (R221). -/
def Track.afterNote (t : Track) (len : Nat) : Track := { t.restartLfo with cursor := t.cursor + len }

/-- The three note-on commands run `noteOn` with the duration that R221 gives them. -/
theorem exec_noteOn {i : Instr} {key : Nat} {velocity : Byte} {dur : Int}
    (h : (i = .tie key velocity ∧ dur = -1) ∨
      ∃ n : Nat, (i = .note key velocity n ∨ i = .notec key velocity n) ∧ dur = ((max n 1 : Nat) : Int)) (s : State) :
    exec i s = noteOn key velocity dur s := by
  obtain ⟨rfl, rfl⟩ | ⟨n, rfl | rfl, rfl⟩ := h
  · rfl
  · rw [← noteDuration_eq]; rfl
  · rw [← noteDuration_eq]; rfl

/-- Settles O13: a note-on starts its voice from the state in which the executing track is written; that write leaves the bank's answer
and the allocation as they were. -/
theorem noteOnResult : Obligations.note_on_result := by
  refine ⟨fun s e i key velocity dur he hi => ?_, fun bank voice key r => ?_, fun rom r g => ⟨fun hr => ?_, fun hr => r.fits_of_not_pcm hr rom⟩⟩
  · dsimp only
    rw [exec_noteOn hi, noteOn_of_fetch he, ← transposedKey_eq]
    have hbank : bankLookup (s.setTrack s.cur (s.track.afterNote e.len)).bank (s.setTrack s.cur (s.track.afterNote e.len)).track.voice =
        bankLookup s.bank s.track.voice := by
      rw [State.setTrack_track]; rfl
    have halloc (c : VoiceClass) : allocate (s.setTrack s.cur (s.track.afterNote e.len)) c s.cur = allocate s c s.cur :=
      allocate_setTrack (s := s) (t := s.cur) (x := s.track.afterNote e.len) rfl c s.cur
    refine ⟨fun hmiss => ?_, fun r hr => ?_⟩
    · exact congrArg _ (startVoice_miss _ _ ((congrFun hbank _).trans hmiss))
    · replace hr := (congrFun hbank _).trans hr
      refine ⟨fun hf => congrArg _ (startVoice_outside _ _ hr hf), fun hf ha => ?_, fun c hf ha => ?_⟩
      · exact congrArg _ (startVoice_full _ _ hr hf ((halloc _).trans ha))
      · have hstart := startVoice_allocated (noteVelocity velocity) dur hr hf ((halloc _).trans ha)
        rw [State.setTrack_track] at hstart
        exact congrArg _ hstart
  · rw [bankLookup_iff, findInst_eq_find, Instrument.inRange_iff]
  · exact Instrument.fits_pcm hr rom

end Sys2Proof.Machine

end

/-! ## Fetching: a step of a runnable track is one command (41_track_commands.md R220, 42_tick_scheduler.md R271, R278) -/

section

namespace Sys2Proof.Machine

/-- R220, R271, R278: in a pass or a tick's command half, a track that may run executes the entry its cursor names. -/
theorem step_of_fetch {s : State} {e : Entry} (he : s.fetch = some e) (hrun : s.track.runnable = true)
    (hp : (∃ job, s.phase = .pass job) ∨ ∃ job, s.phase = .tickRun job) : step s = exec e.cmd s := by
  rw [exec_eq_execute, ← runCommand_of_fetch he]
  obtain ⟨job, hp⟩ | ⟨job, hp⟩ := hp
  · rw [step_pass hp, stepPass, if_pos hrun]
  · rw [step_tickRun hp, stepTickRun, if_pos hrun]

/-- Settles O8: a table that matches the bytes holds what they decode to, and the step executes the table's entry. -/
theorem stepRunsDecodedCommand : Obligations.step_runs_decoded_command := by
  rintro s i n hrom ⟨e, he⟩ hd - hrun hp
  have hentry : (e.cmd, e.len) = (i, n) := Except.ok.inj ((hrom s.cur s.track.cursor e he).symm.trans hd)
  obtain ⟨rfl, rfl⟩ := Prod.mk.inj hentry
  exact ⟨step_of_fetch he hrun hp, e, he, rfl, rfl⟩

/-! ### Placed bytes (log 3) -/

theorem placeBytes_track (s : State) (bs : List Byte) :
    (placeBytes s bs).track = { s.tracks[(0 : TrackId)] with opened := true, stopped := false, rest := 0, cursor := 0 } :=
  vec_set_self ..

theorem oneCommand_of_decode {bs : List Byte} {i : Instr} {n : Nat} (h : decode bs = .ok (i, n)) :
    oneCommand Profile.reference bs = [(0, ⟨i, n, []⟩)] := by
  have hd : decodeWith Profile.reference.toDecodeProfile bs = .ok (i, n) := h
  simp only [oneCommand, hd]

theorem placeBytes_fetch {bs : List Byte} {i : Instr} {n : Nat} (h : decode bs = .ok (i, n)) (s : State) :
    (placeBytes s bs).fetch = some ⟨i, n, []⟩ := by
  have hlist : (oneCommandTable Profile.reference bs).cmds[(0 : TrackId)] = [(0, ⟨i, n, []⟩)] :=
    (vec_set_self (Vector.replicate Config.maxTracks []) (0 : TrackId) _).trans (oneCommand_of_decode h)
  show lookupCmd (oneCommandTable Profile.reference bs).cmds[(0 : TrackId)] (placeBytes s bs).track.cursor = _
  rw [hlist, placeBytes_track]
  rfl

theorem step_placeBytes {bs : List Byte} {i : Instr} {n : Nat} (h : decode bs = .ok (i, n)) (s : State) :
    step (placeBytes s bs) = exec i (placeBytes s bs) :=
  step_of_fetch (placeBytes_fetch h s) (by rw [placeBytes_track]; rfl) (.inr ⟨.frame, rfl⟩)

theorem decode_of_decodeTableWord {nbits w : Nat} {i : Instr} (h : decodeTableWord nbits w = some i) :
    ∃ n, decode (wordBytes nbits w) = .ok (i, n) := by
  unfold decodeTableWord at h
  split at h
  · next j n hd => cases h; exact ⟨n, hd⟩
  · cases h

/-- Settles O9: the placed state fetches the placed command in the command half of a tick. -/
theorem placedBytesRunNext : Obligations.placed_bytes_run_next := by
  refine ⟨fun s bs i n h => ⟨step_placeBytes h s, placeBytes_fetch h s⟩, fun s nbits w i h => ?_⟩
  obtain ⟨n, hd⟩ := decode_of_decodeTableWord h
  exact step_placeBytes hd s

end Sys2Proof.Machine

end

/-! ## The frame step and the tick scheduler (42_tick_scheduler.md R270 to R290, 60_exceptions.md R500 to R508) -/

section

namespace Sys2Proof.Machine

variable {P : Profile} {s t : State P}

/-! ### O41 -/

theorem Phase.ofFrameTicks_iff {p : Phase} :
    p.ofFrameTicks = true ↔ p = .ticks .frame ∨ p = .tickPre .frame ∨ p = .tickRun .frame := by
  constructor
  · intro h
    unfold Phase.ofFrameTicks at h
    split at h
    · exact .inl rfl
    · exact .inr (.inl rfl)
    · exact .inr (.inr rfl)
    · cases h
  · rintro (rfl | rfl | rfl) <;> rfl

/-- R272: before the first tick of a frame step the tempo is added to the accumulator. -/
theorem step_accumulates {s : State} (hp : s.phase = .host) (hc : s.taken = []) (hm : s.mode = .playing) :
    step s = .next { s with tempoStack := s.tempoStack + s.tempo.toNat, phase := .ticks .frame } := by
  rw [step_host hp]
  simp only [stepHost, hc, hm, if_true]

/-- The end of a frame step leaves the accumulator, or clears it with everything that `StopAll` clears (R290, R503). -/
theorem finishFrame_tempoStack (h : finishFrame s = .next t) :
    t.phase = .boundary ∧ (t.tempoStack = s.tempoStack ∨ t.tempoStack = 0) := by
  have hend (u : State P) : (endCheck u).tempoStack = u.tempoStack ∨ (endCheck u).tempoStack = 0 := by
    obtain h | h := endCheck_cases u <;> rw [h]
    · exact .inl rfl
    · exact .inr rfl
  obtain ⟨-, -, rfl⟩ | ⟨-, rfl⟩ := finishFrame_next h
  · exact ⟨rfl, hend s.afterQuantum⟩
  · exact ⟨rfl, hend { s with pcmOut := silentQuantum P }⟩

/-- The command half of a track's tick neither reads nor writes the accumulator, and stays within the tick or ends it (R272, R274). -/
theorem stepTickRun_tempoStack {job : TickJob} (hp : s.phase = .tickRun job) (h : stepTickRun job s = .next t) :
    t.tempoStack = s.tempoStack ∧ (t.phase = .tickRun job ∨ t.phase = .tickPre job ∨ t.phase = .ticks job) := by
  obtain ⟨-, h⟩ | ⟨-, u, -, rfl⟩ | ⟨-, -, h⟩ := stepTickRun_next h
  · obtain ⟨e, -, hx⟩ := runCommand_next h
    exact ⟨execute_tempoStack hx, .inl ((execute_phase hx).trans hp)⟩
  · exact ⟨rfl, .inr (.inl rfl)⟩
  · obtain ⟨-, rfl⟩ := endTick_next h
    exact ⟨loopCheck_tempoStack _, .inr (.inr rfl)⟩

/-- Settles O41: by the phase, and between two ticks by what the accumulator holds. -/
theorem frameTicksFollowTempo : Obligations.frame_ticks_follow_tempo := by
  refine ⟨fun s => step_accumulates, fun s t hframe h => ?_⟩
  obtain hp | hp | hp := Phase.ofFrameTicks_iff.1 hframe
  · rw [step_ticks hp] at h
    obtain ⟨-, hstack, rfl⟩ | ⟨-, hstack, h⟩ | ⟨_, _, hjob, -⟩ | ⟨_, _, hjob, -⟩ := stepTicks_next h
    · exact .inr (.inl ⟨hp, hstack, rfl⟩)
    · exact .inr (.inr ⟨hp, hstack, finishFrame_tempoStack h⟩)
    · cases hjob
    · cases hjob
  · rw [step_tickPre hp] at h
    cases h
    exact .inl ⟨hp ▸ nofun, rfl, rfl⟩
  · rw [step_tickRun hp] at h
    obtain ⟨hstack, hphase⟩ := stepTickRun_tempoStack hp h
    exact .inl ⟨hp ▸ nofun, hstack, Phase.ofFrameTicks_iff.2 (by tauto)⟩

/-! ### O42 -/

theorem Channel.ownedBy_iff (ch : Channel) (t : TrackId) : ch.ownedBy t = true ↔ ch.state ≠ .dead ∧ ch.owner = some t := by
  simp only [Channel.ownedBy, Bool.and_eq_true, Channel.live_iff, decide_eq_true_eq]

/-- The rest counter takes no part in the LFO's step (R275, R330). -/
theorem Track.countRest_lfoStep (x : Track) : x.countRest.lfoStep = { x.lfoStep with rest := x.rest - 1 } := by
  unfold Track.lfoStep Track.countRest
  split <;> rfl

/-- R274: the channels that a track's tick steps are the live ones it owns. -/
theorem State.tickChannel_eq (s : State P) (u : TrackId) (c : P.Chan) :
    s.tickChannel u c =
      if s.channels[c].state ≠ .dead ∧ s.channels[c].owner = some u then s.channels[c].tick (P.envLaw (P.classOf c))
      else s.channels[c] := by
  simp only [State.tickChannel, Channel.ownedBy_iff]

theorem trackPre_eq (job : TickJob) (s : State P) :
    trackPre job s =
      { s with
        tracks := s.tracks.set s.cur { s.track.lfoStep with rest := s.track.rest - 1 }
        channels := vecOfFn fun c =>
          if s.channels[c].state ≠ .dead ∧ s.channels[c].owner = some s.cur then
            s.channels[c].tick (P.envLaw (P.classOf c))
          else s.channels[c]
        phase := .tickRun job } := by
  simp only [trackPre, Track.countRest_lfoStep, State.tickChannel_eq]
  rfl

theorem nextTrack_of_succ {x u : TrackId} (h : u.val = x.val + 1) : nextTrack x = some u := by
  have hlt : x.val + 1 < Config.maxTracks := h ▸ u.isLt
  rw [nextTrack, dif_pos hlt]
  exact congrArg some (Fin.ext h.symm)

theorem nextTrack_last {x : TrackId} (h : x.val = 15) : nextTrack x = none := by
  rw [nextTrack, h]
  rfl

theorem Channel.bound_iff (ch : Channel) :
    ch.bound = true ↔ (ch.state ≠ .dead → ch.owner.isSome = true ∧ ch.inst.isSome = true) := by
  rw [← Channel.live_iff]
  unfold Channel.bound
  cases ch.live <;> simp

theorem vec_all_iff {α : Type} {n : Nat} (v : Vector α n) (p : α → Bool) : v.toList.all p = true ↔ ∀ i : Fin n, p v[i] = true := by
  rw [List.all_eq_true]
  constructor
  · exact fun h i => h _ (by simp)
  · intro h x hx
    obtain ⟨i, hi, rfl⟩ := Vector.mem_iff_getElem.1 (Vector.mem_toList_iff.1 hx)
    exact h ⟨i, hi⟩

theorem all_bound_iff (s : State P) :
    s.channels.toList.all Channel.bound = true ↔
      ∀ c : P.Chan, s.channels[c].state ≠ .dead → s.channels[c].owner.isSome = true ∧ s.channels[c].inst.isSome = true := by
  simp only [vec_all_iff, Channel.bound_iff]

/-- `RecomputeGain` changes no dead channel, and no channel without an owner or a record (R336). -/
theorem withGainsOf_channel (s : State) (c : ChanId) : s.withGainsOf.channels[c] = s.regainChannel s.channels[c] := by
  unfold State.withGainsOf State.regainChannel
  rw [vecOfFn_fin]
  cases ho : s.channels[c].owner with
  | none => simp only [ite_self]
  | some u =>
    cases hi : s.channels[c].inst with
    | none => simp only [ite_self]
    | some i => simp only [Channel.live_iff, ne_eq, ite_not]

theorem withGainsOf_eq (s : State) : s.withGainsOf = s.mapChannels s.regainChannel := by
  have hchannels : s.withGainsOf.channels = vecMap s.regainChannel s.channels :=
    Vector.ext fun i hi => (withGainsOf_channel s ⟨i, hi⟩).trans (vecMap_fin s.regainChannel s.channels ⟨i, hi⟩).symm
  calc s.withGainsOf = { s with channels := s.withGainsOf.channels } := rfl
    _ = s.mapChannels s.regainChannel := by rw [hchannels]; rfl

/-- Gains are recomputed where every live channel is bound to its owner and its record (R48, R336). -/
theorem withGains_of_bound {s : State} (k : State → Result)
    (h : ∀ c : ChanId, s.channels[c].state ≠ .dead → s.channels[c].owner.isSome = true ∧ s.channels[c].inst.isSome = true) :
    withGains s k = k s.withGainsOf := by
  rw [withGains, if_pos ((all_bound_iff s).2 h), withGainsOf_eq]

section

variable {s : State} (hrun : s.track.runnable = false)
include hrun

theorem step_tickNext {u : TrackId} (hu : nextTrack s.cur = some u) {job : TickJob} (hp : s.phase = .tickRun job) :
    step s = .next { s with cur := u, phase := .tickPre job } := by
  rw [step_tickRun hp]
  simp only [stepTickRun, hrun, hu, Bool.false_eq_true, if_false]

theorem step_passNext {u : TrackId} (hu : nextTrack s.cur = some u) {job : PassJob} (hp : s.phase = .pass job) :
    step s = .next { s with cur := u } := by
  rw [step_pass hp]
  simp only [stepPass, hrun, hu, Bool.false_eq_true, if_false]

theorem step_tickEnd (hu : nextTrack s.cur = none) {job : TickJob} (hp : s.phase = .tickRun job) : step s = endTick job s := by
  rw [step_tickRun hp]
  simp only [stepTickRun, hrun, hu, Bool.false_eq_true, if_false]

theorem step_passEnd (hu : nextTrack s.cur = none) {job : PassJob} (hp : s.phase = .pass job) : step s = endPass job s := by
  rw [step_pass hp]
  simp only [stepPass, hrun, hu, Bool.false_eq_true, if_false]

end

/-- R285: below its target a seek ticks on. -/
theorem step_seekTick {s : State} {m : Mode} {n : Nat} (hp : s.phase = .ticks (.seek m n)) (h : s.elapsed < min n s.maxTicks) :
    step s = .next (beginTick (.seek m n) s) := by
  rw [step_ticks hp]
  exact if_pos h

/-- Settles O42: each phase of a tick or a pass, and after track 15 the two ends of them. -/
theorem tickAndPassStructure : Obligations.tick_and_pass_structure := by
  refine ⟨fun s job hp => ?_, fun s => s.track.runnable_iff, fun s u hrun hu => ?_, fun s hrun hlast hbound => ?_,
    fun s m n hp h => step_seekTick hp h⟩
  · rw [step_tickPre hp, trackPre_eq]
  · have hnext := nextTrack_of_succ hu
    exact ⟨fun job hp => step_tickNext hrun hnext hp, fun job hp => step_passNext hrun hnext hp⟩
  · have hnext := nextTrack_last hlast
    refine ⟨fun job hp => ?_, fun hp => ?_, fun m n hp => ?_⟩
    · rw [step_tickEnd hrun hnext hp]; exact withGains_of_bound _ hbound
    · rw [step_passEnd hrun hnext hp]; exact withGains_of_bound _ hbound
    · rw [step_passEnd hrun hnext hp]; exact withGains_of_bound _ hbound

/-! ### O44 -/

theorem performPlay_of_idle (h : s.mode = .playing ∨ s.mode = .noSong) : performPlay s = .next s := by
  obtain h | h := h <;> simp only [performPlay, h]

theorem performPlay_of_paused (h : s.mode = .paused) : performPlay s = .next { s with mode := .playing } := by
  simp only [performPlay, h]

theorem performPlay_of_stopped (h : s.mode = .stopped) : performPlay s = .next { s.rewind with phase := .pass .play, cur := 0 } := by
  simp only [performPlay, h]

theorem performSeek_of_noSong (h : s.mode = .noSong) (n : Nat) : performSeek n s = .next s := by
  simp only [performSeek, h]

theorem performSeek_of_song (h : s.mode ≠ .noSong) (n : Nat) :
    performSeek n s = .next { s.rewind with seeking := true, phase := .pass (.seek s.mode n), cur := 0 } := by
  unfold performSeek
  split
  · exact absurd ‹_› h
  · rfl

/-- R285: the rewind at the end of a seek. -/
theorem endSeek_eq (m : Mode) (s : State P) :
    endSeek m s =
      { s with
        elapsed := if s.elapsed = s.maxTicks then s.loopStartTick.getD s.elapsed else s.elapsed
        seeking := false
        mode := if m = .playing then .playing else .paused
        phase := .host } := by
  unfold endSeek
  cases s.loopStartTick with
  | none => rw [Option.getD_none, ite_self]
  | some l => rfl

/-- R285: a seek ends when `E` has reached its target. -/
theorem step_seekEnd {s : State} {m : Mode} {n : Nat} (hp : s.phase = .ticks (.seek m n)) (h : min n s.maxTicks ≤ s.elapsed) :
    step s = .next (endSeek m s) := by
  rw [step_ticks hp]
  exact if_neg (Nat.not_lt.2 h)

/-- Settles O44: the two host commands by the mode, and the end of a seek. -/
theorem playAndSeek : Obligations.play_and_seek :=
  ⟨fun _ => performPlay_of_idle, fun _ => performPlay_of_paused, fun _ n h => performSeek_of_noSong h n,
    fun _ => ⟨performPlay_of_stopped, performSeek_of_song⟩,
    fun s m _ hp h => (step_seekEnd hp h).trans (congrArg Host.Outcome.next (endSeek_eq m s))⟩

/-! ### O47 -/

theorem fadeTrigger_some (n : Nat) (s : State P) :
    fadeTrigger (some n) s = { s with fade := if n < s.loopCount ∧ s.fade = .none then beginFadeOut P.fadeSamples else s.fade } := by
  unfold fadeTrigger
  dsimp only
  split <;> rfl

theorem loopCheck_of_none (h : s.loopStartTick = none) : loopCheck s = s := by
  simp only [loopCheck, h, ite_self]

/-- R283: the rewind of a looping song, with the fade trigger after the loop is counted. -/
theorem loopCheck_of_some {l : Nat} (h : s.loopStartTick = some l) :
    loopCheck s =
      if s.seeking = false ∧ s.elapsed = s.maxTicks then
        fadeTrigger P.loopThreshold { s with elapsed := l, loopCount := s.loopCount + 1 }
      else s := by
  cases hs : s.seeking <;> simp [loopCheck, h, hs]

theorem anyLive_eq_false_iff (s : State P) : s.anyLive = false ↔ ∀ c : P.Chan, s.channels[c].state = .dead := by
  rw [State.anyLive, List.any_eq_not_all_not, Bool.not_eq_false', vec_all_iff]
  simp only [Channel.live, decide_not, Bool.not_not, decide_eq_true_eq]

/-- R290: the song is over for the end check. -/
theorem songOver_iff (s : State P) :
    (s.tracks.toList.all Track.stopped && !s.anyLive) = true ↔
      (∀ t : TrackId, s.tracks[t].stopped = true) ∧ ∀ c : P.Chan, s.channels[c].state = .dead := by
  rw [Bool.and_eq_true, vec_all_iff, Bool.not_eq_true', anyLive_eq_false_iff]

/-- Settles O47: the loop check by `LoopStartTick` and `E`, and the end check by its condition. -/
theorem loopCheckAndEndCheck : Obligations.loop_check_and_end_check := by
  refine ⟨fun s => ?_, fun s => ?_⟩
  · split
    · exact loopCheck_of_none ‹_›
    · next l hl => rw [loopCheck_of_some hl]; exact congrArg (ite _ · s) (fadeTrigger_some 1 _)
  · rw [← songOver_iff]
    exact ⟨fun h => if_pos h, fun h => if_neg h⟩

/-! ### O45: no part of a step but its first reads the host queue (R500, R509) -/

section

variable (c : HostCmd)

/-- The answer with one more host command waiting. -/
def enqueueResult : Result P → Result P := onNext fun t => t.enqueue c

theorem withLen_enqueue {k k' : Nat → Result P} (hk : ∀ n, k' n = enqueueResult c (k n)) :
    withLen (s.enqueue c) k' = enqueueResult c (withLen s k) := by
  have hfetch : (s.enqueue c).fetch = s.fetch := rfl
  unfold withLen
  rw [hfetch]
  split
  · rfl
  · exact hk _

theorem retire_enqueue (s : State P) (f : Track → Track) : retire (s.enqueue c) f = enqueueResult c (retire s f) :=
  withLen_enqueue c fun _ => rfl

theorem candidateOf_enqueue (is : List P.Chan) (best : Option (P.Chan × TrackId)) :
    candidateOf (s.enqueue c) is best = candidateOf s is best := by
  induction is generalizing best with
  | nil => rfl
  | cons i is ih => simp only [candidateOf, ih]; rfl

theorem allocate_enqueue (cls : VoiceClass) (u : TrackId) : allocate (s.enqueue c) cls u = allocate s cls u := by
  unfold allocate
  rw [candidateOf_enqueue]
  rfl

theorem startVoice_enqueue (s : State P) (key velocity : Nat) (dur : Int) :
    startVoice (s.enqueue c) key velocity dur = (startVoice s key velocity dur).enqueue c := by
  have hlook : bankLookup (s.enqueue c).bank (s.enqueue c).track.voice key = bankLookup s.bank s.track.voice key := rfl
  have halloc (i : Instrument) : allocate (s.enqueue c) i.cls (s.enqueue c).cur = allocate s i.cls s.cur := allocate_enqueue ..
  cases hi : bankLookup s.bank s.track.voice key with
  | none => rw [startVoice_miss _ _ hi, startVoice_miss _ _ (hlook.trans hi)]
  | some i =>
    replace hlook := hlook.trans hi
    cases hf : i.fits s.sampleRom with
    | false => rw [startVoice_outside _ _ hi hf, startVoice_outside _ _ hlook hf]
    | true =>
      cases ha : allocate s i.cls s.cur with
      | none => rw [startVoice_full _ _ hi hf ha, startVoice_full _ _ hlook hf ((halloc i).trans ha)]
      | some v =>
        rw [startVoice_allocated _ _ hi hf ha, startVoice_allocated _ _ hlook hf ((halloc i).trans ha)]
        rfl

theorem noteOn_enqueue (s : State P) (key : Nat) (velocity : Byte) (dur : Int) :
    noteOn key velocity dur (s.enqueue c) = enqueueResult c (noteOn key velocity dur s) :=
  withLen_enqueue c fun n => congrArg Host.Outcome.next (startVoice_enqueue c (s.setTrack s.cur (s.track.afterNote n)) _ _ dur)

/-- No command reads the queue. -/
theorem execute_enqueue (i : Instr) (s : State P) : execute i (s.enqueue c) = enqueueResult c (execute i s) := by
  have hstack : (s.enqueue c).track.stack = s.track.stack := rfl
  cases commandShape P i with
  | register f g h => rw [h, h]; exact retire_enqueue c { s with tempo := g s.tempo } f
  | note key velocity dur h => rw [h, h]; exact noteOn_enqueue c s key velocity dur
  | endOfTie key h => rw [h, h]; exact retire_enqueue c (s.mapChannels _) id
  | trackOpen u target hi =>
    simp only [hi, execute, execTrackOpen]
    exact withLen_enqueue c fun _ => rfl
  | jump target hi => rw [hi]; rfl
  | call target hi =>
    simp only [hi, execute, execCall, hstack]
    split
    · rfl
    · exact withLen_enqueue c fun _ => rfl
  | loop count hi =>
    simp only [hi, execute, execLoop, hstack]
    split
    · rfl
    · exact withLen_enqueue c fun _ => rfl
  | loopend hi =>
    simp only [hi, execute, execLoopend, hstack]
    split
    · rfl
    · exact retire_enqueue c s _
    · rfl
    · rfl
  | ret hi =>
    simp only [hi, execute, execRet, hstack]
    split <;> rfl
  | fine hi => rw [hi]; rfl

theorem runCommand_enqueue (s : State P) : runCommand (s.enqueue c) = enqueueResult c (runCommand s) := by
  have hfetch : (s.enqueue c).fetch = s.fetch := rfl
  unfold runCommand
  rw [hfetch]
  split
  · rfl
  · exact execute_enqueue c _ s

/-- A load reads its song alone (R180). -/
theorem performLoad_enqueue (song : Song) (s : State P) : performLoad song (s.enqueue c) = enqueueResult c (performLoad song s) := by
  unfold performLoad
  rw [loadIsPure P ((s.enqueue c).unload song) (s.unload song)]
  split
  · rfl
  · split <;> rfl

/-- No host command reads what waits behind it for the next frame step (R500), `ShutDown` neither (log 10). -/
theorem perform_enqueue (d : HostCmd) (s : State P) : perform d (s.enqueue c) = enqueueResult c (perform d s) := by
  have hmode : (s.enqueue c).mode = s.mode := rfl
  cases d with
  | loadSong song => exact performLoad_enqueue c song s
  | shutDown => rfl
  | play => simp only [perform, performPlay, hmode]; cases s.mode <;> rfl
  | stop => simp only [perform, performStop, hmode]; cases s.mode <;> rfl
  | pause => simp only [perform, performPause, hmode]; cases s.mode <;> rfl
  | setCurrentPosition n => simp only [perform, performSeek, hmode]; cases s.mode <;> rfl
  | fadeIn => simp only [perform, performFadeIn, hmode]; cases s.mode <;> rfl

theorem endCheck_enqueue (s : State P) : endCheck (s.enqueue c) = (endCheck s).enqueue c :=
  (apply_ite (fun t : State P => t.enqueue c) _ s.stopAll s).symm

theorem withGains_enqueue {k : State P → Result P} (hk : ∀ u, k (u.enqueue c) = enqueueResult c (k u)) (s : State P) :
    withGains (s.enqueue c) k = enqueueResult c (withGains s k) := by
  have hchannels : (s.enqueue c).channels = s.channels := rfl
  unfold withGains
  rw [hchannels]
  split
  · exact hk (s.mapChannels s.regainChannel)
  · rfl

theorem withQuantum_enqueue {k : State P → Result P} (hk : ∀ u, k (u.enqueue c) = enqueueResult c (k u)) (s : State P) :
    withQuantum (s.enqueue c) k = enqueueResult c (withQuantum s k) := by
  have hmode : (s.enqueue c).mode = s.mode := rfl
  have hrender : (s.enqueue c).channels.toList.all (Channel.renderable (s.enqueue c).sampleRom) =
      s.channels.toList.all (Channel.renderable s.sampleRom) := rfl
  simp only [withQuantum, hmode, hrender]
  split
  · split
    · exact hk s.afterQuantum
    · rfl
  · exact hk { s with pcmOut := silentQuantum P }

/-- The quantum, the end check and the telemetry read no queue (R270). -/
theorem finishFrame_enqueue (s : State P) : finishFrame (s.enqueue c) = enqueueResult c (finishFrame s) :=
  withQuantum_enqueue c (fun u => by rw [endCheck_enqueue]; rfl) s

theorem fadeTrigger_enqueue (threshold : Option Nat) (s : State P) :
    fadeTrigger threshold (s.enqueue c) = (fadeTrigger threshold s).enqueue c := by
  cases threshold with
  | none => rfl
  | some n => rw [fadeTrigger_some, fadeTrigger_some]; rfl

theorem loopCheck_enqueue (s : State P) : loopCheck (s.enqueue c) = (loopCheck s).enqueue c := by
  cases hl : s.loopStartTick with
  | none => rw [loopCheck_of_none hl, loopCheck_of_none (s := s.enqueue c) hl]
  | some l =>
    rw [loopCheck_of_some hl, loopCheck_of_some (s := s.enqueue c) hl, apply_ite (fun u : State P => u.enqueue c), ← fadeTrigger_enqueue]
    rfl

theorem stepHost_enqueue (s : State P) : stepHost (s.enqueue c) = enqueueResult c (stepHost s) := by
  have htaken : (s.enqueue c).taken = s.taken := rfl
  have hmode : (s.enqueue c).mode = s.mode := rfl
  unfold stepHost
  rw [htaken, hmode]
  split
  · next d ds _ => exact perform_enqueue c d { s with taken := ds }
  · split
    · rfl
    · exact finishFrame_enqueue c s

theorem stepPass_enqueue (job : PassJob) (s : State P) : stepPass job (s.enqueue c) = enqueueResult c (stepPass job s) := by
  have htrack : (s.enqueue c).track = s.track := rfl
  have hcur : (s.enqueue c).cur = s.cur := rfl
  unfold stepPass
  rw [htrack, hcur]
  split
  · exact runCommand_enqueue c s
  · split
    · rfl
    · exact withGains_enqueue c (fun u => by cases job <;> rfl) s

theorem stepTicks_enqueue (job : TickJob) (s : State P) : stepTicks job (s.enqueue c) = enqueueResult c (stepTicks job s) := by
  have hstack : (s.enqueue c).tempoStack = s.tempoStack := rfl
  have helapsed : (s.enqueue c).elapsed = s.elapsed := rfl
  have hmax : (s.enqueue c).maxTicks = s.maxTicks := rfl
  cases job with
  | frame =>
    simp only [stepTicks, hstack]
    split
    · rfl
    · exact finishFrame_enqueue c s
  | seek m target =>
    simp only [stepTicks, helapsed, hmax]
    split <;> rfl

theorem stepTickRun_enqueue (job : TickJob) (s : State P) :
    stepTickRun job (s.enqueue c) = enqueueResult c (stepTickRun job s) := by
  have htrack : (s.enqueue c).track = s.track := rfl
  have hcur : (s.enqueue c).cur = s.cur := rfl
  unfold stepTickRun
  rw [htrack, hcur]
  split
  · exact runCommand_enqueue c s
  · split
    · rfl
    · exact withGains_enqueue c (fun u => by rw [loopCheck_enqueue]; rfl) s

/-- Of a frame step's parts only the first takes from the queue (R270, R500). -/
theorem advance_enqueue (hp : s.phase ≠ .boundary) : advance (s.enqueue c) = enqueueResult c (advance s) := by
  have hphase : (s.enqueue c).phase = s.phase := rfl
  unfold advance
  rw [hphase]
  cases h : s.phase with
  | boundary => exact absurd h hp
  | host => exact stepHost_enqueue c s
  | pass job => exact stepPass_enqueue c job s
  | ticks job => exact stepTicks_enqueue c job s
  | tickPre job => rfl
  | tickRun job => exact stepTickRun_enqueue c job s

end

theorem step_performs {s : State} {c : HostCmd} {cs : List HostCmd} (hp : s.phase = .host) (hc : s.taken = c :: cs) :
    step s = perform c { s with taken := cs } := by
  rw [step_host hp]
  simp only [stepHost, hc]

/-- R270, R480: the frame step ends silently when no command is left and nothing plays. -/
theorem step_finishesSilent {s : State} (hp : s.phase = .host) (hc : s.taken = []) (hm : s.mode ≠ .playing) :
    step s =
      .next
        { s with
          pcmOut := List.replicate Config.samplesPerFrame (0, 0), telemetry := telemetryOf s, phase := .boundary } := by
  have hfinish : stepHost s = finishFrame s := by simp only [stepHost, hc, if_neg hm]
  rw [step_host hp, hfinish]
  exact finishFrame_silent hm

/-- Settles O45: the first step takes the queue, the host phase works it off, and no step between two boundaries reads what is enqueued. -/
theorem queuedCommandWaits : Obligations.queued_command_waits :=
  ⟨fun _ hp => step_boundary hp, fun _ _ _ => step_performs, fun _ => step_finishesSilent, fun _ _ => rfl,
    fun _ _ c hp h => (advance_enqueue c hp).trans (congrArg (enqueueResult c) h)⟩

end Sys2Proof.Machine

end

/-! ## The voice envelope, pitch, LFO and gain (43_voice_envelope.md R310 to R335) -/

section

namespace Sys2Proof.Machine

/-! ### The reference envelope step and the countdown (R312 to R320) -/

section

variable {ch : Channel}

/-- A law's answer other than `Dead` is written to a live channel as it is (R310). -/
theorem Channel.envStep_of_live {law : EnvLaw} {st : EnvState} {l : Nat} (hlive : ch.state ≠ .dead)
    (hlaw : law ch.envPoint = (st, l)) (hst : st ≠ .dead) : ch.envStep law = { ch with state := st, level := l } := by
  rw [Channel.envStep, if_neg hlive, hlaw, if_neg hst]

theorem referenceEnvLaw_attacking {x : EnvPoint} (h : x.state = .initializing ∨ x.state = .attack) :
    referenceEnvLaw x = attackStep x := by
  unfold referenceEnvLaw
  obtain h | h := h <;> rw [h]

/-- R312, R314: the first step of a note is an attack step. -/
theorem Channel.envStep_attacking (h : ch.state = .initializing ∨ ch.state = .attack) :
    ch.envStep referenceEnvLaw =
      { ch with
        level := min 255 (ch.level + max ch.a.toNat 1)
        state := if min 255 (ch.level + max ch.a.toNat 1) = 255 then .decay else .attack } := by
  have hlive : ch.state ≠ .dead := by obtain h | h := h <;> simp [h]
  exact Channel.envStep_of_live hlive (referenceEnvLaw_attacking h) (by split <;> decide)

/-- R315. -/
theorem Channel.envStep_decay (h : ch.state = .decay) :
    ch.envStep referenceEnvLaw =
      if ch.level * ch.d.toNat / 256 ≤ ch.s.toNat then { ch with level := ch.s.toNat, state := .sustain }
      else { ch with level := ch.level * ch.d.toNat / 256 } := by
  have hlive : ch.state ≠ .dead := by simp [h]
  have hlaw : referenceEnvLaw ch.envPoint = decayStep ch.envPoint := by simp only [referenceEnvLaw, Channel.envPoint, h]
  split
  · next hs => exact Channel.envStep_of_live hlive (hlaw.trans (if_pos hs)) (by decide)
  · next hs => rw [Channel.envStep_of_live hlive (hlaw.trans (if_neg hs)) (by decide), ← h]; rfl

/-- R316. -/
theorem Channel.envStep_sustain (h : ch.state = .sustain) : ch.envStep referenceEnvLaw = ch := by
  have hlaw : referenceEnvLaw ch.envPoint = (.sustain, ch.level) := by simp only [referenceEnvLaw, Channel.envPoint, h]
  rw [Channel.envStep_of_live (by simp [h]) hlaw (by decide), ← h]

/-- R317, R320. -/
theorem Channel.envStep_releasing (h : ch.state = .releasing) :
    ch.envStep referenceEnvLaw =
      if ch.level * ch.r.toNat / 256 = 0 then { ch with level := 0, state := .dead, owner := none }
      else { ch with level := ch.level * ch.r.toNat / 256 } := by
  have hlive : ch.state ≠ .dead := by simp [h]
  have hlaw : referenceEnvLaw ch.envPoint = releaseStep ch.envPoint := by simp only [referenceEnvLaw, Channel.envPoint, h]
  split
  · next h0 =>
    have hdead : releaseStep ch.envPoint = (.dead, 0) := if_pos h0
    rw [Channel.envStep, if_neg hlive, hlaw, hdead, if_pos rfl]
    rfl
  · next h0 => rw [Channel.envStep_of_live hlive (hlaw.trans (if_neg h0)) (by decide), ← h]; rfl

/-- R313: the two writes of the countdown. -/
theorem Channel.countdown_eq_ite (ch : Channel) :
    ch.countdown =
      if 0 < ch.durLeft ∧ ch.state ≠ .releasing ∧ ch.state ≠ .dead then
        { ch with durLeft := ch.durLeft - 1, state := if ch.durLeft = 1 then .releasing else ch.state }
      else ch := by
  have hone : ch.durLeft - 1 = 0 ↔ ch.durLeft = 1 := by omega
  simp only [Channel.countdown, Channel.sounding_iff, and_comm (a := ch.state ≠ .dead), hone]

theorem Channel.countdown_of_sounding (hs : ch.sounding = true) (hd : 0 < ch.durLeft) :
    ch.countdown = { ch with durLeft := ch.durLeft - 1, state := if ch.durLeft = 1 then .releasing else ch.state } := by
  rw [Channel.countdown_eq_ite, if_pos ⟨hd, (ch.sounding_iff.1 hs).symm⟩]

/-- A tie's duration of -1 is not counted down (R313). -/
theorem Channel.countdown_of_tie (h : ch.durLeft = -1) : ch.countdown = ch := by
  rw [Channel.countdown_eq_ite, if_neg (by omega)]

theorem Channel.countdown_of_releasing (h : ch.state = .releasing) : ch.countdown = ch := by
  rw [Channel.countdown_eq_ite, if_neg (by simp [h])]

end

/-! ### O22 -/

/-- Settles O22: the countdown and, for each state, the step of the reference law. -/
theorem envelopeStepLaws : Obligations.envelope_step_laws := by
  intro c ch
  refine ⟨rfl, ch.countdown_eq_ite, fun h => ?_, Channel.envStep_decay, Channel.envStep_sustain, Channel.envStep_releasing⟩
  have hstep := Channel.envStep_attacking h
  have hlevel : (ch.envStep referenceEnvLaw).level = min 255 (ch.level + max ch.a.toNat 1) := by rw [hstep]
  exact ⟨hlevel, by simp only [hlevel]; exact hstep⟩

/-! ### O23 -/

section

variable {ch : Channel}

theorem Channel.tick_attackingTie (h : ch.state = .initializing ∨ ch.state = .attack) (ht : ch.durLeft = -1) :
    ch.tick referenceEnvLaw =
      { ch with
        level := min 255 (ch.level + max ch.a.toNat 1)
        state := if min 255 (ch.level + max ch.a.toNat 1) = 255 then .decay else .attack } := by
  rw [Channel.tick, Channel.countdown_of_tie ht, Channel.envStep_attacking h]

/-- By induction on what the level lacks of 255: each tick adds at least 1 (R314). -/
theorem Channel.attack_ends_within (h : ch.state = .initializing ∨ ch.state = .attack) (ht : ch.durLeft = -1) :
    ∃ n, n ≤ max 1 (255 - ch.level) ∧ ((Channel.tick referenceEnvLaw)^[n] ch).state = .decay ∧
      ((Channel.tick referenceEnvLaw)^[n] ch).level = 255 := by
  induction hm : 255 - ch.level using Nat.strong_induction_on generalizing ch with
  | _ m ih =>
    have htick := Channel.tick_attackingTie h ht
    by_cases htop : min 255 (ch.level + max ch.a.toNat 1) = 255
    · refine ⟨1, le_max_left .., ?_⟩
      rw [Function.iterate_one, htick, htop]
      exact ⟨rfl, rfl⟩
    · rw [if_neg htop] at htick
      have hlevel : (ch.tick referenceEnvLaw).level = min 255 (ch.level + max ch.a.toNat 1) := by rw [htick]
      have hattack : (ch.tick referenceEnvLaw).state = .attack := by rw [htick]
      have htie : (ch.tick referenceEnvLaw).durLeft = -1 := by rw [htick]; exact ht
      obtain ⟨n, hn, hend⟩ := ih (255 - (ch.tick referenceEnvLaw).level) (by omega) (.inr hattack) htie rfl
      exact ⟨n + 1, by omega, hend⟩

end

/-- Settles O23: at most 255 levels are missing. -/
theorem attackEnds : Obligations.attack_ends := by
  intro _ ch h ht
  obtain ⟨n, hn, hend⟩ := Channel.attack_ends_within h ht
  exact ⟨n, by omega, hend⟩

/-! ### O24 -/

section

variable {ch : Channel}

/-- R317's own remark: a level above 0 times R/256 is a lower level. -/
theorem mul_byte_div_lt {l : Nat} (h : 0 < l) (r : Byte) : l * r.toNat / 256 < l :=
  Nat.div_lt_of_lt_mul ((Nat.mul_lt_mul_left h).2 r.isLt |>.trans_eq (Nat.mul_comm ..))

theorem Channel.tick_releasing (h : ch.state = .releasing) :
    ch.tick referenceEnvLaw =
      if ch.level * ch.r.toNat / 256 = 0 then { ch with level := 0, state := .dead, owner := none }
      else { ch with level := ch.level * ch.r.toNat / 256 } := by
  rw [Channel.tick, Channel.countdown_of_releasing h, Channel.envStep_releasing h]

theorem Channel.tick_releasing_level_lt (h : ch.state = .releasing) (hl : 0 < ch.level) :
    (ch.tick referenceEnvLaw).level < ch.level := by
  rw [Channel.tick_releasing h]
  split
  · exact hl
  · exact mul_byte_div_lt hl ch.r

/-- By induction on the level, which every tick that does not kill the channel lowers. -/
theorem Channel.release_dies_within (h : ch.state = .releasing) :
    ∃ n, 1 ≤ n ∧ n ≤ ch.level + 1 ∧ ((Channel.tick referenceEnvLaw)^[n] ch).state = .dead ∧
      ((Channel.tick referenceEnvLaw)^[n] ch).owner = none := by
  induction hl : ch.level using Nat.strong_induction_on generalizing ch with
  | _ l ih =>
    subst hl
    by_cases h0 : ch.level * ch.r.toNat / 256 = 0
    · refine ⟨1, le_rfl, by omega, ?_⟩
      rw [Function.iterate_one, Channel.tick_releasing h, if_pos h0]
      exact ⟨rfl, rfl⟩
    · have hpos : 0 < ch.level := Nat.pos_of_ne_zero fun hz => h0 (by rw [hz, Nat.zero_mul])
      have hlt := Channel.tick_releasing_level_lt h hpos
      have hstill : (ch.tick referenceEnvLaw).state = .releasing := by rw [Channel.tick_releasing h, if_neg h0]; exact h
      obtain ⟨n, -, hn, hdead⟩ := ih _ hlt hstill rfl
      exact ⟨n + 1, by omega, by omega, hdead⟩

end

/-- Settles O24: the level falls every tick, and a product of 0 kills. -/
theorem releaseDies : Obligations.release_dies := by
  refine fun _ ch h => ⟨Channel.tick_releasing_level_lt h, fun hzero => ?_, Channel.release_dies_within h⟩
  have h0 : ch.level * ch.r.toNat / 256 = 0 := by
    obtain hr | hl := hzero
    · simp [hr]
    · simp [hl]
  have htick : ch.tick referenceEnvLaw = _ := (Channel.tick_releasing h).trans (if_pos h0)
  exact congrArg Channel.state htick

/-! ### O25 -/

section

variable {ch : Channel}

/-- A sounding channel is not released or killed by the reference law (R312 to R316). -/
theorem Channel.envStep_sounding (h : ch.sounding = true) : (ch.envStep referenceEnvLaw).sounding = true := by
  obtain ⟨hlive, hrel⟩ := ch.sounding_iff.1 h
  rw [Channel.sounding_iff]
  cases hs : ch.state with
  | initializing => rw [Channel.envStep_attacking (.inl hs)]; simp only; split <;> decide
  | attack => rw [Channel.envStep_attacking (.inr hs)]; simp only; split <;> decide
  | decay => rw [Channel.envStep_decay hs]; split <;> simp [hs]
  | sustain => rw [Channel.envStep_sustain hs]; exact ⟨hlive, hrel⟩
  | releasing => exact absurd hs hrel
  | dead => exact absurd hs hlive

theorem Channel.envStep_releasing_silent (h : ch.state = .releasing) : (ch.envStep referenceEnvLaw).sounding = false := by
  rw [Channel.envStep_releasing h]
  split <;> simp [Channel.sounding, h]

theorem Channel.tick_durLeft (law : EnvLaw) (ch : Channel) : (ch.tick law).durLeft = ch.countdown.durLeft := by
  obtain ⟨st, o, l, -, -, hx⟩ := ch.tick_frame law
  rw [hx]

/-- A tick of a note with more than one tick left: it sounds on, with one tick less left (R313, R319). -/
theorem Channel.tick_note (hs : ch.sounding = true) (hd : 1 < ch.durLeft) :
    (ch.tick referenceEnvLaw).sounding = true ∧ (ch.tick referenceEnvLaw).durLeft = ch.durLeft - 1 := by
  have hc := Channel.countdown_of_sounding hs (by omega)
  rw [if_neg (by omega)] at hc
  have hsound : ch.countdown.sounding = true := by rw [hc]; exact hs
  exact ⟨Channel.envStep_sounding hsound, by rw [Channel.tick_durLeft, hc]⟩

theorem Channel.tick_tie (hs : ch.sounding = true) (ht : ch.durLeft = -1) :
    (ch.tick referenceEnvLaw).sounding = true ∧ (ch.tick referenceEnvLaw).durLeft = -1 := by
  have hc := Channel.countdown_of_tie ht
  exact ⟨by rw [Channel.tick, hc]; exact Channel.envStep_sounding hs, by rw [Channel.tick_durLeft, hc, ht]⟩

theorem Channel.iterate_tick_note {d : Nat} (hs : ch.sounding = true) (hd : ch.durLeft = d) (n : Nat) (hn : n < d) :
    ((Channel.tick referenceEnvLaw)^[n] ch).sounding = true ∧
      ((Channel.tick referenceEnvLaw)^[n] ch).durLeft = (d : Int) - n := by
  induction n with
  | zero => exact ⟨hs, by simp [hd]⟩
  | succ n ih =>
    obtain ⟨hsound, hleft⟩ := ih (by omega)
    obtain ⟨hsound', hleft'⟩ := Channel.tick_note hsound (by omega)
    rw [Function.iterate_succ_apply']
    exact ⟨hsound', by omega⟩

theorem Channel.iterate_tick_tie (hs : ch.sounding = true) (ht : ch.durLeft = -1) (n : Nat) :
    ((Channel.tick referenceEnvLaw)^[n] ch).sounding = true ∧ ((Channel.tick referenceEnvLaw)^[n] ch).durLeft = -1 := by
  induction n with
  | zero => exact ⟨hs, ht⟩
  | succ n ih => rw [Function.iterate_succ_apply']; exact Channel.tick_tie ih.1 ih.2

/-- The countdown from 1 releases (R313). -/
theorem Channel.countdown_last (hs : ch.sounding = true) (hd : ch.durLeft = 1) : ch.countdown.state = .releasing := by
  rw [Channel.countdown_of_sounding hs (by omega)]
  exact if_pos hd

end

/-- Settles O25: before the d-th tick one tick is left, and its countdown releases. -/
theorem durationReleases : Obligations.duration_releases := by
  refine fun _ ch hs => ⟨fun d hpos hd => ?_, Channel.iterate_tick_tie hs⟩
  obtain ⟨m, rfl⟩ := Nat.exists_eq_add_of_le' hpos
  obtain ⟨hsound, hleft⟩ := Channel.iterate_tick_note hs hd m (by omega)
  have hlast := Channel.countdown_last hsound (by omega)
  refine ⟨Channel.iterate_tick_note hs hd, hlast, ?_⟩
  rw [Function.iterate_succ_apply']
  exact Channel.envStep_releasing_silent hlast

/-! ### O49 -/

/-- The exact test of the model is the comparison of R328 over the reals: 2^cents is (2^(cents / 1200))^1200. -/
theorem powLe_iff (num den : Nat) (cents : Int) (n : Nat) :
    powLe num den cents n = true ↔ (n : ℝ) * den ≤ num * (2 : ℝ) ^ ((cents : ℝ) / 1200) := by
  have hpow : ((2 : ℝ) ^ ((cents : ℝ) / 1200)) ^ 1200 * 2 ^ (-cents).toNat = 2 ^ cents.toNat := by
    rw [← Real.rpow_mul_natCast (by norm_num), Nat.cast_ofNat, div_mul_cancel₀ _ (by norm_num), Real.rpow_intCast,
      ← zpow_natCast, ← zpow_natCast, ← zpow_add₀ (by norm_num)]
    congr 1
    omega
  have hpos : (0 : ℝ) < 2 ^ (-cents).toNat := by positivity
  calc powLe num den cents n = true
    _ ↔ (n * den) ^ 1200 * 2 ^ (-cents).toNat ≤ num ^ 1200 * 2 ^ cents.toNat := decide_eq_true_iff
    _ ↔ ((n : ℝ) * den) ^ 1200 * 2 ^ (-cents).toNat ≤ num ^ 1200 * 2 ^ cents.toNat := by exact_mod_cast Iff.rfl
    _ ↔ ((n : ℝ) * den) ^ 1200 ≤ (num * (2 : ℝ) ^ ((cents : ℝ) / 1200)) ^ 1200 := by
      rw [← hpow, ← mul_assoc, ← mul_pow, mul_le_mul_iff_left₀ hpos]
    _ ↔ (n : ℝ) * den ≤ num * (2 : ℝ) ^ ((cents : ℝ) / 1200) :=
      pow_le_pow_iff_left₀ (by positivity) (by positivity) (by decide)

/-- The bitwise search finds the greatest admitted number, when what is admitted is downward closed and holds its start. -/
theorem le_greatest_iff {ok : Nat → Bool} (hdown : ∀ m n, m ≤ n → ok n = true → ok m = true) (bits : Nat) {acc : Nat}
    (hacc : ok acc = true) (n : Nat) : n ≤ greatest ok bits acc ↔ n < acc + 2 ^ bits ∧ ok n = true := by
  induction bits generalizing acc with
  | zero =>
    rw [greatest, Nat.pow_zero, Nat.lt_succ_iff]
    exact ⟨fun h => ⟨h, hdown n acc h hacc⟩, And.left⟩
  | succ b ih =>
    unfold greatest
    rw [Nat.pow_succ]
    split
    · next hbit =>
      rw [ih hbit]
      refine and_congr_left fun _ => ?_
      omega
    · next hbit =>
      rw [ih hacc]
      refine and_congr_left fun hn => ⟨fun h => by omega, fun _ => ?_⟩
      exact Nat.lt_of_not_le fun hle => hbit (hdown _ n hle hn)

theorem powLe_of_le (num den : Nat) (cents : Int) (m n : Nat) (h : m ≤ n) (hn : powLe num den cents n = true) :
    powLe num den cents m = true := by
  rw [powLe_iff] at hn ⊢
  have hmn : (m : ℝ) * den ≤ n * den := by gcongr
  exact hmn.trans hn

/-- R328, R329: the model's search is the floor over the reals, at most 2^32 - 1. -/
theorem scaledStep_eq_floor (num : Nat) {den : Nat} (hden : 0 < den) (cents : Int) :
    scaledStep num den cents = min (2 ^ 32 - 1) ⌊(num : ℝ) * (2 : ℝ) ^ ((cents : ℝ) / 1200) / den⌋₊ := by
  have hzero : powLe num den cents 0 = true := by rw [powLe_iff, Nat.cast_zero, zero_mul]; positivity
  have hden' : (0 : ℝ) < den := Nat.cast_pos.2 hden
  refine eq_of_forall_le_iff fun n => ?_
  rw [scaledStep, le_greatest_iff (powLe_of_le num den cents) 32 hzero, le_min_iff, Nat.le_floor_iff (by positivity),
    le_div_iff₀ hden', powLe_iff]
  refine and_congr_left fun _ => ?_
  omega

/-- R328 at the reference output rate. -/
theorem pcmStep_eq_floor (rate : Nat) (cents : Int) :
    scaledStep (rate * 65536) 32768 cents =
      min (2 ^ 32 - 1) ⌊(rate : ℝ) * (2 : ℝ) ^ ((cents : ℝ) / 1200) * 65536 / 32768⌋₊ := by
  rw [scaledStep_eq_floor _ (by decide), Nat.cast_mul, Nat.cast_ofNat, Nat.cast_ofNat, mul_right_comm]

/-- R329 at the reference output rate. -/
theorem synthStep_eq_floor (cents : Int) :
    scaledStep (440 * 4294967296) 32768 cents =
      min (2 ^ 32 - 1) ⌊440 * (2 : ℝ) ^ ((cents : ℝ) / 1200) * 2 ^ 32 / 32768⌋₊ := by
  have hnum : ((440 * 4294967296 : Nat) : ℝ) = 440 * 2 ^ 32 := by norm_num
  rw [scaledStep_eq_floor _ (by decide), hnum, Nat.cast_ofNat, mul_right_comm]

/-- Settles O49: the two cases of the reference law. -/
theorem freqStepIsFloor : Obligations.freq_step_is_floor := by
  intro c i cents
  change referenceFreqLaw 32768 c i cents = _
  unfold referenceFreqLaw
  cases i.payload with
  | pcm g => exact pcmStep_eq_floor g.rate cents
  | square | wave | noise => exact congrArg (max 1) (synthStep_eq_floor cents)

/-! ### O50 -/

theorem amplitude_eq (t : Track) (velocity level : Nat) :
    amplitude t velocity level =
      if velocity * t.volume * t.expression / 16129 * level / 255 = 0 then 0
      else max 0 (min 127 (((velocity * t.volume * t.expression / 16129 * level / 255 : Nat) : Int) + lfoVol t)) := by
  rw [amplitude, clamp_eq_max_min (by decide)]

theorem panOfTrack_eq (t : Track) : panOfTrack t = max (-64) (min 63 (t.pan + lfoPan t)) := clamp_eq_max_min (by decide) _

/-- A gain is a natural number, so nothing is lost by storing it as one. -/
theorem gain_cast {a p : Int} (ha : 0 ≤ a) (hp : 0 ≤ p) : ((asr (a * p) 7).toNat : Int) = a * p / 128 :=
  Int.toNat_of_nonneg (Int.ediv_nonneg (mul_nonneg ha hp) (by decide))

/-- The product of three seven-bit values over 127 * 127 is one (R335). -/
theorem gainBase_le {v x e : Nat} (hv : v ≤ 127) (hx : x ≤ 127) (he : e ≤ 127) : v * x * e / 16129 ≤ 127 :=
  Nat.div_le_of_le_mul (Nat.mul_le_mul (Nat.mul_le_mul hv hx) he)

theorem gainAmp_le {b l : Nat} (hb : b ≤ 127) (hl : l ≤ 255) : b * l / 255 ≤ 127 :=
  Nat.div_le_of_le_mul ((Nat.mul_le_mul hb hl).trans_eq (Nat.mul_comm ..))

/-- Settles O50: the two gains are the formula's, and the pan's two sentences are its values at -64 and 0. -/
theorem gainLaw : Obligations.gain_law := by
  intro t i ch base amp amp' p q
  have hamp : amplitude t ch.velocity ch.level = amp' := amplitude_eq ..
  have hpan : panOfTrack t = p := panOfTrack_eq t
  have ha := (amplitude_bounds t ch.velocity ch.level).1
  have hp : -64 ≤ panOfTrack t ∧ panOfTrack t ≤ 63 := clamp_bounds _ _ _ (by decide)
  have hL : (q.gainL : Int) = amp' * (64 - p) / 128 := by rw [← hamp, ← hpan]; exact gain_cast ha (by omega)
  have hR : (q.gainR : Int) = amp' * (64 + p) / 128 := by rw [← hamp, ← hpan]; exact gain_cast ha (by omega)
  obtain ⟨hL127, hR127⟩ := recomputeGain_gains Profile.reference t i ch
  refine ⟨recomputeGain_frame t i ch, hL, hR, rfl, hL127, hR127, fun hleft => ?_, fun hcentre => ?_, fun hv hx he => ?_⟩
  · rw [hleft] at hL hR
    omega
  · rw [hcentre] at hL hR
    omega
  · have hbase : base ≤ 127 := gainBase_le hv hx he
    exact ⟨hbase, gainAmp_le hbase⟩

/-! ### O51 -/

theorem Track.lfoStep_eq (t : Track) :
    t.lfoStep =
      if t.lfoDelayCount = 0#16 then { t with lfoPhase := BitVec.ofNat 8 (t.lfoPhase.toNat + t.lfoSpeed.toNat) }
      else { t with lfoDelayCount := BitVec.ofNat 16 (t.lfoDelayCount.toNat - 1) } := by
  unfold Track.lfoStep
  split
  · next hpos =>
    have hne : t.lfoDelayCount ≠ 0#16 := fun h => by simp [h] at hpos
    have hdec : t.lfoDelayCount - 1#16 = BitVec.ofNat 16 (t.lfoDelayCount.toNat - 1) := by bv_omega
    rw [if_neg hne, hdec]
  · next hzero =>
    have heq : t.lfoDelayCount = 0#16 := by bv_omega
    have hadd : t.lfoPhase + t.lfoSpeed = BitVec.ofNat 8 (t.lfoPhase.toNat + t.lfoSpeed.toNat) := by bv_omega
    rw [if_pos heq, hadd]

/-- R331: the triangle's range. -/
theorem tri_bounds (p : Byte) : -64 ≤ tri p ∧ tri p ≤ 64 := by
  have := p.isLt
  unfold tri
  split
  · omega
  · split <;> omega

theorem Instrument.pitchBase_eq (i : Instrument) : (i.pitchBase : Int) = if i.cls = .pcm then (i.baseNote : Int) else 69 := by
  unfold Instrument.pitchBase Instrument.cls
  cases i.payload <;> rfl

theorem Instrument.playKey_eq (i : Instrument) (key : Nat) : i.playKey key = i.fixedKey.getD key := by
  unfold Instrument.playKey
  cases i.fixedKey <;> rfl

/-- Settles O51: the shifts are divisions, and a note's key and base are its record's. -/
theorem lfoAndPitchLaw : Obligations.lfo_and_pitch_law := by
  refine fun t => ⟨t.lfoStep_eq, fun p => ⟨(tri_bounds p).1, (tri_bounds p).2, rfl⟩, rfl, rfl, rfl, rfl, rfl, fun i key => ?_⟩
  rw [centsOf, Instrument.playKey_eq, Instrument.pitchBase_eq]

end Sys2Proof.Machine

end

/-! ## The ADPCM sample codec (44_voice_adpcm.md R353 to R363) -/

section

namespace Sys2Proof.Machine

/-! ### The decode step and the snapshot (R353, R361) -/

/-- R353: every decoded sample is clamped. -/
theorem Codec.decode_pred_bounds (P : Profile) (q : Codec) (b : Nat) : -32768 ≤ (q.decode P b).pred ∧ (q.decode P b).pred ≤ 32767 := by
  unfold Codec.decode
  dsimp only
  split <;> exact clampS16_bounds _

/-- The decode step reads the predictor and the step index only (R353), so these two determine all samples to come. -/
theorem codecSamples_congr (P : Profile) {q q' : Codec} (hpred : q.pred = q'.pred) (hidx : q.idx = q'.idx) (v : List Nat) :
    codecSamples P q v = codecSamples P q' v := by
  induction v generalizing q q' with
  | nil => rfl
  | cons b bs ih =>
    have hpred' : (q.decode P b).pred = (q'.decode P b).pred := by simp only [Codec.decode, hpred, hidx]
    have hidx' : (q.decode P b).idx = (q'.decode P b).idx := by simp only [Codec.decode, hidx]
    rw [codecSamples, codecSamples, hpred', ih hpred' hidx']

/-- R362: restoring brings back both, and what else the two decoders hold does not matter. -/
theorem codecSamples_restore_snapshot (P : Profile) (q q' : Codec) (v : List Nat) :
    codecSamples P (q'.restore q.snapshot) v = codecSamples P q v :=
  have hpred : (q'.restore q.snapshot).pred = q.pred := rfl
  have hidx : (q'.restore q.snapshot).idx = q.idx := rfl
  codecSamples_congr P hpred hidx v

theorem codecSamples_bounds (P : Profile) (q : Codec) (v : List Nat) : ∀ x ∈ codecSamples P q v, -32768 ≤ x ∧ x ≤ 32767 := by
  induction v generalizing q with
  | nil => exact nofun
  | cons b bs ih =>
    intro x hx
    obtain rfl | htail := List.mem_cons.mp hx
    · exact q.decode_pred_bounds P b
    · exact ih (q.decode P b) x htail

/-! ### The two forms of the difference (R356) -/

/-- R356: the exact form adds the terms of the shifted one, selected by the bits of m, before it divides: 2m + 1 is 8, 4 and 2 for m's
three bits, and 1. -/
theorem adpcmDifference_exact_eq (s : Nat) {m : Nat} (hm : m < 8) :
    adpcmDifference .exact s m =
      (s + (if m / 4 % 2 = 1 then 8 * s else 0) + (if m / 2 % 2 = 1 then 4 * s else 0) + (if m % 2 = 1 then 2 * s else 0)) / 8 := by
  unfold adpcmDifference
  interval_cases m <;> simp <;> omega

/-- R356: three truncations in place of one lose at most 2 (7/8 + 1/2 + 3/4 < 3), and nothing where each term is whole. -/
theorem adpcmDifference_shift_exact (s : Nat) {m : Nat} (hm : m < 8) :
    adpcmDifference .shift s m ≤ adpcmDifference .exact s m ∧ adpcmDifference .exact s m ≤ adpcmDifference .shift s m + 2 ∧
      (8 ∣ s → adpcmDifference .shift s m = adpcmDifference .exact s m) := by
  rw [adpcmDifference_exact_eq s hm, adpcmDifference]
  split_ifs <;> omega

/-! ### O52 -/

/-- Settles O52: a restored decoder has the snapshot's predictor and index, every sample is clamped, and the two differences add the same terms. -/
theorem codecSnapshotAndBounds : Obligations.codec_snapshot_and_bounds :=
  ⟨codecSamples_restore_snapshot, codecSamples_bounds, fun s _ hm => adpcmDifference_shift_exact s hm⟩

end Sys2Proof.Machine

end

/-! ## The PCM resampler (44_voice_adpcm.md R357 to R359, 45_voice_pcm_resampler.md R380 to R388) -/

section

namespace Sys2Proof.Machine

/-! ### Samples of the two linear formats (R381, R382, R385, R386) -/

/-- R14: sign extension of a byte is its value as a two's complement number. -/
theorem sext8_eq_toInt {n : Nat} (h : n < 256) : sext8 n = (BitVec.ofNat 8 n).toInt := by
  unfold sext8
  rw [BitVec.toInt_eq_toNat_cond, BitVec.toNat_ofNat, Nat.mod_eq_of_lt h]
  split <;> split <;> omega

theorem sext16_eq_toInt {n : Nat} (h : n < 65536) : sext16 n = (BitVec.ofNat 16 n).toInt := by
  unfold sext16
  rw [BitVec.toInt_eq_toNat_cond, BitVec.toNat_ofNat, Nat.mod_eq_of_lt h]
  split <;> split <;> omega

section

variable (P : Profile) (rom : Memory) {g : Region}

theorem linearSample_eq_regionSample (h : g.format ≠ .adpcm) (j : Nat) : linearSample rom g j = regionSample rom g j := by
  have hbyte : rom.byteNat (g.addr + j) < 256 := BitVec.isLt _
  have hhalf := rom.halfNat_lt (g.addr + 2 * j)
  unfold linearSample regionSample
  cases hf : g.format with
  | pcm8 => rw [if_pos rfl, ← sext8_eq_toInt hbyte]
  | pcm16 => rw [if_neg nofun]; exact sext16_eq_toInt hhalf
  | adpcm => exact absurd hf h

/-- R385: without interpolation a linear format yields the sample at the position, and it does not touch the decoder. -/
theorem resample_carry (h : g.format ≠ .adpcm) (hi : P.interp = .carry) (ch : Channel) :
    resample P rom g ch = (regionSample rom g ch.pos, ch.codec) := by
  unfold resample
  split
  · exact absurd ‹_› h
  · rw [hi, linearSample_eq_regionSample rom h]

/-- R386: with interpolation it moves toward the next sample of the region, or toward itself at the last one. -/
theorem resample_interpolated (h : g.format ≠ .adpcm) (hi : P.interp = .linear) (ch : Channel) :
    resample P rom g ch =
      (regionSample rom g ch.pos +
          (regionSample rom g (if ch.pos + 1 < g.length then ch.pos + 1 else ch.pos) - regionSample rom g ch.pos) *
              (ch.frac.toNat : Int) / 65536,
        ch.codec) := by
  unfold resample
  split
  · exact absurd ‹_› h
  · simp only [hi, linearSample_eq_regionSample rom h, asr_16, apply_ite (regionSample rom g)]

theorem resample_linear_codec (h : g.format ≠ .adpcm) (ch : Channel) : (resample P rom g ch).2 = ch.codec := by
  cases hi : P.interp with
  | carry => rw [resample_carry P rom h hi]
  | linear => rw [resample_interpolated P rom h hi]

end

/-! ### The decoder after n nibbles (R350, R353, R357) -/

theorem Region.loopOk_iff (g : Region) : g.loopOk = true ↔ g.loop = true ∧ g.loopStart < g.length := by
  simp [Region.loopOk]

theorem Region.not_loopOk_iff (g : Region) : ¬ g.loopOk = true ↔ g.loop = false ∨ g.length ≤ g.loopStart := by
  rw [g.loopOk_iff, Decidable.not_and_iff_or_not, Bool.not_eq_true, Nat.not_lt]

section

variable (P : Profile) (rom : Memory) (g : Region) (n : Nat) (q : Codec)

theorem nibblesOn_succ :
    nibblesOn P rom g (n + 1) q = (nibblesOn P rom g n q).decode P (adpcmNibble rom g (q.nib + n)) := by
  simp only [nibblesOn, List.range_succ, List.foldl_append, List.foldl_cons, List.foldl_nil, adpcmNibble_eq]

/-- R353: each decoded nibble counts once. -/
theorem nibblesOn_nib : (nibblesOn P rom g n q).nib = q.nib + n := by
  induction n with
  | zero => rfl
  | succ n ih =>
    rw [nibblesOn_succ]
    show (nibblesOn P rom g n q).nib + 1 = _
    rw [ih, Nat.add_assoc]

/-- The decoder's state just before nibble `loopStart`, for a decoder that has not passed it (R357). -/
def Codec.loopSnapshot (P : Profile) (rom : Memory) (g : Region) (q : Codec) : Snapshot :=
  let e := nibblesOn P rom g (g.loopStart - q.nib) q
  ⟨e.pred, e.idx, g.loopStart⟩

/-- The loop snapshot after `n` more nibbles (R357): the one held, or the state before nibble `loopStart` if that nibble was among them. -/
def Codec.snapAfter (P : Profile) (rom : Memory) (g : Region) (n : Nat) (q : Codec) : Option Snapshot :=
  if q.snap = none ∧ g.loop = true ∧ g.loopStart < g.length ∧ q.nib ≤ g.loopStart ∧ g.loopStart < q.nib + n then
    some (q.loopSnapshot P rom g)
  else q.snap

theorem Codec.snapAfter_zero : q.snapAfter P rom g 0 = q.snap := if_neg (by omega)

theorem Codec.snapAfter_of_some {p : Snapshot} (h : q.snap = some p) : q.snapAfter P rom g n = some p := by
  simp [Codec.snapAfter, h]

/-- A held snapshot is never dropped. -/
theorem Codec.snap_eq_none_of_snapAfter (h : q.snapAfter P rom g n = none) : q.snap = none := by
  cases hq : q.snap with
  | none => rfl
  | some p => rw [Codec.snapAfter_of_some P rom g n q hq] at h; cases h

/-- The snapshot taken at the loop point is of the decoder there. -/
theorem snapshot_nibblesOn_of_loopStart (hat : q.nib + n = g.loopStart) :
    (nibblesOn P rom g n q).snapshot = q.loopSnapshot P rom g := by
  have hn : g.loopStart - q.nib = n := by omega
  rw [Codec.snapshot, Codec.loopSnapshot, nibblesOn_nib, hn, hat]

/-- A decoder with no snapshot that stands on the loop point has none before its next nibble, and takes it there (R357). -/
theorem Codec.snapAfter_at_loopStart (hsnap : q.snap = none) (hloop : g.loopOk = true) (hat : q.nib + n = g.loopStart) :
    q.snapAfter P rom g n = none ∧ q.snapAfter P rom g (n + 1) = some (q.loopSnapshot P rom g) := by
  obtain ⟨hlp, hlt⟩ := g.loopOk_iff.mp hloop
  unfold Codec.snapAfter
  rw [if_neg (by omega), if_pos ⟨hsnap, hlp, hlt, by omega, by omega⟩]
  exact ⟨hsnap, rfl⟩

/-- Elsewhere the next nibble does not change the snapshot. -/
theorem Codec.snapAfter_elsewhere (h : ¬ (q.snap = none ∧ g.loopOk = true ∧ q.nib + n = g.loopStart)) :
    q.snapAfter P rom g (n + 1) = q.snapAfter P rom g n := by
  unfold Codec.snapAfter
  refine if_congr ⟨fun ⟨hsnap, hlp, hlt, hle, hpassed⟩ => ⟨hsnap, hlp, hlt, hle, ?_⟩,
    fun ⟨hsnap, hlp, hlt, hle, hpassed⟩ => ⟨hsnap, hlp, hlt, hle, Nat.lt_succ_of_lt hpassed⟩⟩ rfl rfl
  have hnot : q.nib + n ≠ g.loopStart := fun hat => h ⟨hsnap, g.loopOk_iff.mpr ⟨hlp, hlt⟩, hat⟩
  omega

/-- The decoder after n nibbles, asked to take its snapshot, holds the one it has after one nibble more. -/
theorem Codec.trySnapshot_nibblesOn :
    Codec.trySnapshot g { nibblesOn P rom g n q with snap := q.snapAfter P rom g n } =
      { nibblesOn P rom g n q with snap := q.snapAfter P rom g (n + 1) } := by
  have hnib := nibblesOn_nib P rom g n q
  unfold Codec.trySnapshot
  by_cases hdue : q.snap = none ∧ g.loopOk = true ∧ q.nib + n = g.loopStart
  · obtain ⟨hsnap, hloop, hat⟩ := hdue
    obtain ⟨hnow, hnext⟩ := Codec.snapAfter_at_loopStart P rom g n q hsnap hloop hat
    rw [if_pos ⟨hloop, hnow, hnib.trans hat⟩, hnext, ← snapshot_nibblesOn_of_loopStart P rom g n q hat]
    rfl
  · rw [Codec.snapAfter_elsewhere P rom g n q hdue, if_neg]
    rintro ⟨hloop, hnow, hat⟩
    exact hdue ⟨Codec.snap_eq_none_of_snapAfter P rom g n q hnow, hloop, hnib.symm.trans hat⟩

/-- R358: n nibbles decoded in order, with the snapshot taken on the way. -/
theorem Codec.advanceBy_eq_nibblesOn :
    Codec.advanceBy P rom g n q = { nibblesOn P rom g n q with snap := q.snapAfter P rom g n } := by
  induction n with
  | zero => rw [Codec.snapAfter_zero]; rfl
  | succ n ih =>
    have hnib : (Codec.advanceBy P rom g n q).nib = q.nib + n := by rw [ih]; exact nibblesOn_nib P rom g n q
    rw [Codec.advanceBy_succ, Codec.advance, hnib, ih, Codec.trySnapshot_nibblesOn, nibblesOn_succ]
    rfl

theorem Codec.advanceBy_add (m n : Nat) :
    Codec.advanceBy P rom g (m + n) q = Codec.advanceBy P rom g n (Codec.advanceBy P rom g m q) := by
  induction n with
  | zero => rfl
  | succ n ih => rw [← Nat.add_assoc, Codec.advanceBy_succ, Codec.advanceBy_succ, ih]

/-! ### The decoder at a wrap (R359, R387) -/

theorem Codec.wrap_of_some {p : Snapshot} (h : q.snap = some p) : q.wrap P rom g = ⟨p.pred, p.idx, p.nib, some p⟩ := by
  simp only [Codec.wrap, Codec.restore, h]

/-- A snapshot held before the sample is the one restored. -/
theorem Codec.wrap_advanceBy_of_some {p : Snapshot} (h : q.snap = some p) :
    (Codec.advanceBy P rom g n q).wrap P rom g = ⟨p.pred, p.idx, p.nib, some p⟩ := by
  apply Codec.wrap_of_some
  rw [Codec.advanceBy_eq_nibblesOn]
  exact Codec.snapAfter_of_some P rom g n q h

/-- With no snapshot held, a decoder that has not passed the loop point decodes up to it and takes the snapshot there. -/
theorem Codec.wrap_of_none (h : q.snap = none) (hloop : g.loopOk = true) (hle : q.nib ≤ g.loopStart) :
    let p := q.loopSnapshot P rom g
    q.wrap P rom g = ⟨p.pred, p.idx, p.nib, some p⟩ := by
  have hat : q.nib + (g.loopStart - q.nib) = g.loopStart := Nat.add_sub_cancel' hle
  obtain ⟨-, hnext⟩ := Codec.snapAfter_at_loopStart P rom g _ q h hloop hat
  simp only [Codec.wrap, h]
  rw [Codec.advanceBy_eq_nibblesOn, Codec.trySnapshot_nibblesOn, hnext, ← snapshot_nibblesOn_of_loopStart P rom g _ q hat]
  rfl

/-- The loop point's state is the same whether the decoder passes it before the wrap or during it. -/
theorem Codec.wrap_advanceBy_of_none (h : q.snap = none) (hloop : g.loopOk = true) (hle : q.nib ≤ g.loopStart) :
    let p := q.loopSnapshot P rom g
    (Codec.advanceBy P rom g n q).wrap P rom g = ⟨p.pred, p.idx, p.nib, some p⟩ := by
  obtain ⟨hlp, hlt⟩ := g.loopOk_iff.mp hloop
  have hadv := Codec.advanceBy_eq_nibblesOn P rom g n q
  by_cases hpassed : g.loopStart < q.nib + n
  · have hsnap : q.snapAfter P rom g n = some (q.loopSnapshot P rom g) := if_pos ⟨h, hlp, hlt, hle, hpassed⟩
    exact Codec.wrap_of_some P rom g _ (by rw [hadv, hsnap])
  · have hnone : (Codec.advanceBy P rom g n q).snap = none := by
      rw [hadv]
      exact (if_neg (by omega)).trans h
    have hnib : (Codec.advanceBy P rom g n q).nib = q.nib + n := by rw [hadv]; exact nibblesOn_nib P rom g n q
    have hsplit : n + (g.loopStart - (q.nib + n)) = g.loopStart - q.nib := by omega
    have hsame : (Codec.advanceBy P rom g n q).wrap P rom g = q.wrap P rom g := by
      simp only [Codec.wrap, h, hnone]
      rw [hnib, ← Codec.advanceBy_add, hsplit]
    rw [hsame]
    exact Codec.wrap_of_none P rom g q h hloop hle

end

/-! ### One output sample of a channel (R384, R387, R388) -/

section

variable (P : Profile) (rom : Memory) (g : Region) (ch : Channel)

/-- The position and fraction after one output sample, as one number in 1/65536 samples (R384). -/
def Channel.nextFixed (ch : Channel) : Nat := ch.pos * 65536 + ch.frac.toNat + ch.step

/-- The channel after its sample and the advance, before the end of the region is looked at (R384). -/
def Channel.sampled (P : Profile) (rom : Memory) (g : Region) (ch : Channel) : Channel :=
  { ch with
    pos := ch.nextFixed / 65536
    frac := BitVec.ofNat 16 ch.nextFixed
    codec := (resample P rom g ch).2 }

theorem Channel.advancePos_eq :
    ch.advancePos = { ch with pos := ch.nextFixed / 65536, frac := BitVec.ofNat 16 ch.nextFixed } := by
  have hpos : ch.pos + (ch.frac.toNat + ch.step) / 65536 = ch.nextFixed / 65536 := by unfold Channel.nextFixed; omega
  have hfrac : BitVec.ofNat 16 (ch.frac.toNat + ch.step) = BitVec.ofNat 16 ch.nextFixed := by
    apply BitVec.eq_of_toNat_eq
    simp only [BitVec.toNat_ofNat, Channel.nextFixed]
    omega
  rw [Channel.advancePos, hpos, hfrac]

theorem renderPcm_eq : renderPcm P rom g ch = ((resample P rom g ch).1, (ch.sampled P rom g).endCheck P rom g) := by
  rw [renderPcm, Channel.advancePos_eq]
  rfl

theorem Channel.endCheck_inside (h : ch.pos < g.length) : ch.endCheck P rom g = ch := if_neg (Nat.not_le.mpr h)

theorem Channel.endCheck_wrap (h : g.length ≤ ch.pos) (hloop : g.loopOk = true) : ch.endCheck P rom g = ch.wrap P rom g := by
  rw [Channel.endCheck, if_pos h, if_pos hloop]

theorem Channel.endCheck_die (h : g.length ≤ ch.pos) (hloop : ¬ g.loopOk = true) : ch.endCheck P rom g = ch.die := by
  rw [Channel.endCheck, if_pos h, if_neg hloop]

@[simp] theorem Channel.endCheck_frac : (ch.endCheck P rom g).frac = ch.frac := by
  unfold Channel.endCheck
  split
  · split <;> rfl
  · rfl

/-- Only a wrap writes the decoder. -/
theorem Channel.endCheck_codec_of_no_wrap (h : ch.pos < g.length ∨ ¬ g.loopOk = true) : (ch.endCheck P rom g).codec = ch.codec := by
  obtain hin | hno := h
  · rw [Channel.endCheck_inside P rom g ch hin]
  · unfold Channel.endCheck
    rw [if_neg hno]
    split <;> rfl

/-- A wrap of a linear format leaves it as well (R387). -/
theorem Channel.endCheck_codec_linear (h : g.format ≠ .adpcm) : (ch.endCheck P rom g).codec = ch.codec := by
  by_cases hwraps : g.length ≤ ch.pos ∧ g.loopOk = true
  · rw [Channel.endCheck_wrap P rom g ch hwraps.1 hwraps.2]
    exact if_neg h
  · exact Channel.endCheck_codec_of_no_wrap P rom g ch ((not_and_or.mp hwraps).imp Nat.lt_of_not_le id)

end

section

variable (P : Profile) (rom : Memory) {g : Region} (ch : Channel)

/-- R358, R383: an ADPCM sample is the predictor once the nibbles up to the position are decoded. -/
theorem resample_adpcm (h : g.format = .adpcm) :
    resample P rom g ch =
      let d := Codec.advanceBy P rom g (ch.pos + 1 - ch.codec.nib) ch.codec
      (d.pred, d) := by
  simp only [resample, h, Codec.seek]

/-- R357, R358: without a wrap the decoder has decoded the nibbles up to the position and holds the snapshot taken on the way. -/
theorem renderPcm_codec_adpcm (h : g.format = .adpcm) (hend : ch.nextFixed / 65536 < g.length ∨ ¬ g.loopOk = true) :
    let m := ch.pos + 1 - ch.codec.nib
    (renderPcm P rom g ch).2.codec = { nibblesOn P rom g m ch.codec with snap := ch.codec.snapAfter P rom g m } := by
  intro m
  have hcodec : (renderPcm P rom g ch).2.codec = (resample P rom g ch).2 := by
    rw [renderPcm_eq]
    exact Channel.endCheck_codec_of_no_wrap P rom g _ hend
  rw [hcodec, resample_adpcm P rom ch h]
  exact Codec.advanceBy_eq_nibblesOn P rom g m ch.codec

/-- R383, R387: the decoder that wraps is the one that has decoded the nibbles up to the position. -/
theorem Channel.sampled_wrap_codec (h : g.format = .adpcm) :
    ((ch.sampled P rom g).wrap P rom g).codec =
      (Codec.advanceBy P rom g (ch.pos + 1 - ch.codec.nib) ch.codec).wrap P rom g := by
  rw [Channel.wrap, Channel.sampled, resample_adpcm P rom ch h]
  exact if_pos h

/-- R387: past the end of a well-formed loop the sampled channel wraps. -/
theorem renderPcm_wrap (hend : g.length ≤ ch.nextFixed / 65536) (hloop : g.loopOk = true) :
    (renderPcm P rom g ch).2 = (ch.sampled P rom g).wrap P rom g := by
  rw [renderPcm_eq]
  exact Channel.endCheck_wrap P rom g _ hend hloop

/-- R388: past the end of any other region the channel dies. -/
theorem renderPcm_die (hend : g.length ≤ ch.nextFixed / 65536) (hloop : ¬ g.loopOk = true) :
    (renderPcm P rom g ch).2 = (ch.sampled P rom g).die := by
  rw [renderPcm_eq]
  exact Channel.endCheck_die P rom g _ hend hloop

theorem renderPcm_inside (hin : ch.nextFixed / 65536 < g.length) : (renderPcm P rom g ch).2 = ch.sampled P rom g := by
  rw [renderPcm_eq]
  exact Channel.endCheck_inside P rom g _ hin

theorem renderPcm_frac : (renderPcm P rom g ch).2.frac.toNat = ch.nextFixed % 65536 := by
  rw [renderPcm_eq]
  simp [Channel.sampled]

theorem renderPcm_codec_linear (h : g.format ≠ .adpcm) : (renderPcm P rom g ch).2.codec = ch.codec := by
  rw [renderPcm_eq]
  exact (Channel.endCheck_codec_linear P rom g _ h).trans (resample_linear_codec P rom h ch)

end

/-! ### O53 -/

/-- Settles O53: the sample is the resampler's, the decoder is where the nibbles up to the position put it, and what follows the advance is
nothing, a wrap or death. -/
theorem pcmRenderValues : Obligations.pcm_render_values := by
  intro P rom g ch out n
  refine ⟨fun hlin => ?sample, fun hadpcm => ?predictor, renderPcm_codec_linear P rom ch, fun hadpcm hend => ?decoder, renderPcm_frac P rom ch,
    fun hin => ?inside, fun hend hno => ?death, fun hend hlp hlt => ?wrap⟩
  case sample =>
    show (resample P rom g ch).1 = _
    cases hi : P.interp with
    | carry => rw [resample_carry P rom hlin hi]
    | linear => rw [resample_interpolated P rom hlin hi]
  case predictor =>
    show (resample P rom g ch).1 = _
    rw [resample_adpcm P rom ch hadpcm, Codec.advanceBy_eq_nibblesOn]
  case decoder =>
    intro m d e
    have hcodec := renderPcm_codec_adpcm P rom ch hadpcm (hend.imp id g.not_loopOk_iff.mpr)
    have hnib : d.nib = ch.codec.nib + m := nibblesOn_nib ..
    rw [hcodec]
    exact ⟨rfl, rfl, hnib, rfl⟩
  case inside =>
    have hout : out.2 = ch.sampled P rom g := renderPcm_inside P rom ch hin
    rw [hout]
    exact ⟨rfl, rfl, rfl⟩
  case death =>
    have hout : out.2 = (ch.sampled P rom g).die := renderPcm_die P rom ch hend (g.not_loopOk_iff.mpr hno)
    rw [hout]
    exact ⟨rfl, rfl⟩
  case wrap =>
    have hloop := g.loopOk_iff.mpr ⟨hlp, hlt⟩
    have hout : out.2 = (ch.sampled P rom g).wrap P rom g := renderPcm_wrap P rom ch hend hloop
    rw [hout]
    refine ⟨rfl, rfl, rfl, fun p hadpcm hp => ?_, fun hadpcm hnone hle => ?_⟩
    · exact (Channel.sampled_wrap_codec P rom ch hadpcm).trans (Codec.wrap_advanceBy_of_some P rom g _ _ hp)
    · exact (Channel.sampled_wrap_codec P rom ch hadpcm).trans (Codec.wrap_advanceBy_of_none P rom g _ _ hnone hloop hle)

end Sys2Proof.Machine

end

/-! ## The waveform generators and the rendered sample (46_voice_waveform.md R405 to R422, 47_mixer_allocator.md R471) -/

section

namespace Sys2Proof.Machine

/-! ### The square and the wavetable (R410, R411, R416, R417) -/

/-- R410: the four duty patterns as a table. -/
theorem dutyPattern_eq_getD (d : Fin 4) :
    dutyPattern d =
      [[0, 0, 0, 0, 0, 0, 0, 1], [1, 0, 0, 0, 0, 0, 0, 1], [1, 0, 0, 0, 0, 1, 1, 1], [0, 1, 1, 1, 1, 1, 1, 0]].getD d.val [] :=
  match d with
  | 0 | 1 | 2 | 3 => rfl

/-- R416: a sample of a wavetable is a nibble. -/
theorem waveNibble_lt (w : Vector Byte 16) (n : Nat) : waveNibble w n < 16 := by
  have hbyte : (w.toList.getD (n / 2) 0#8).toNat < 256 := BitVec.isLt _
  unfold waveNibble
  split <;> omega

/-- R406, R417: at amplitude 8192 an eighth of it is a whole number, so nothing is rounded. -/
theorem waveValue_reference (w : Vector Byte 16) (phase : Word32) :
    waveValue 8192 w phase = ((waveNibble w (phase.toNat / 134217728) : Int) - 8) * 1024 := by
  unfold waveValue asr
  omega

/-! ### The noise register (R421) -/

/-- A disjunction of words with no bit in common is their sum. -/
theorem toNat_or_of_disjoint {n : Nat} {x y : BitVec n} (h : x &&& y = 0#n) : (x ||| y).toNat = x.toNat + y.toNat := by
  rw [← BitVec.add_eq_or_of_and_eq_zero x y h, BitVec.toNat_add_of_and_eq_zero h]

/-- The bit the register feeds back: its low bit against the one above (R421). -/
def lfsrFeedback (x : BitVec 15) : BitVec 15 := (x ^^^ (x >>> 1)) &&& 1#15

/-- The register shifted down with the feedback as its new top bit (R421): the whole of the 15-bit mode. -/
def lfsrShifted (x : BitVec 15) : BitVec 15 := (x >>> 1) ||| (lfsrFeedback x <<< 14)

/-- R421: the 7-bit mode puts the feedback in bit 6 as well. -/
theorem lfsrClock_eq (p : Fin 2) (x : BitVec 15) :
    lfsrClock p x = if p = 1 then (lfsrShifted x &&& ~~~0x40#15) ||| (lfsrFeedback x <<< 6) else lfsrShifted x := rfl

theorem lfsrFeedback_toNat (x : BitVec 15) : (lfsrFeedback x).toNat = (x.toNat + x.toNat / 2) % 2 := by
  simp [lfsrFeedback, Nat.and_one_is_mod, Nat.xor_mod_two_eq, Nat.shiftRight_eq_div_pow]

theorem lfsrFeedback_cases (x : BitVec 15) : lfsrFeedback x = 0#15 ∨ lfsrFeedback x = 1#15 := by
  have h := lfsrFeedback_toNat x
  bv_omega

/-- The feedback bit moved to any place of the register. -/
theorem lfsrFeedback_shiftLeft_toNat (x : BitVec 15) {k : Nat} (hk : k < 15) :
    (lfsrFeedback x <<< k).toNat = 2 ^ k * (lfsrFeedback x).toNat := by
  have hpow : 2 ^ k < 2 ^ 15 := Nat.pow_lt_pow_right (by decide) hk
  obtain h | h := lfsrFeedback_cases x
  · simp [h]
  · simpa [h, Nat.shiftLeft_eq] using hpow

/-- The top bit is free after the shift. -/
theorem lfsrShifted_toNat (x : BitVec 15) : (lfsrShifted x).toNat = x.toNat / 2 + 16384 * (lfsrFeedback x).toNat := by
  have hlow : x.toNat / 2 < 2 ^ 14 := by have := x.isLt; omega
  rw [lfsrShifted, BitVec.toNat_or, BitVec.toNat_ushiftRight, Nat.shiftRight_eq_div_pow, lfsrFeedback_shiftLeft_toNat x (by decide),
    Nat.or_comm, ← Nat.two_pow_add_eq_or_of_lt hlow, Nat.add_comm]

/-- A mask's complement takes out exactly what the mask picks. -/
theorem toNat_and_not {n : Nat} (y m : BitVec n) : (y &&& ~~~m).toNat = y.toNat - (y &&& m).toNat := by
  have hdisjoint : (y &&& ~~~m) &&& (y &&& m) = 0#n := by
    rw [BitVec.and_comm y m, BitVec.and_assoc, ← BitVec.and_assoc (~~~m), BitVec.not_and_self]
    simp
  have hwhole : (y &&& ~~~m) ||| (y &&& m) = y := by
    ext i hi
    cases hm : m[i] <;> simp [hm]
  have hsum := toNat_or_of_disjoint hdisjoint
  rw [hwhole] at hsum
  omega

/-- The mask of the 7-bit mode takes bit 6 out. -/
theorem toNat_clearBitSix (y : BitVec 15) : (y &&& ~~~0x40#15).toNat = y.toNat - y.toNat / 64 % 2 * 64 := by
  have hbit : (y &&& 0x40#15).toNat = y.toNat / 64 % 2 * 64 :=
    (Nat.and_two_pow y.toNat 6).trans (congrArg (· * 64) (Nat.toNat_testBit y.toNat 6))
  rw [toNat_and_not, hbit]

/-- Bit 6 replaced by the feedback. -/
theorem toNat_replaceBitSix (x y : BitVec 15) :
    ((y &&& ~~~0x40#15) ||| (lfsrFeedback x <<< 6)).toNat = y.toNat - y.toNat / 64 % 2 * 64 + 64 * (lfsrFeedback x).toNat := by
  have hdisjoint : (y &&& ~~~0x40#15) &&& (lfsrFeedback x <<< 6) = 0#15 := by
    obtain h | h := lfsrFeedback_cases x
    · simp [h]
    · rw [h, BitVec.and_assoc]
      exact BitVec.and_zero
  rw [toNat_or_of_disjoint hdisjoint, toNat_clearBitSix, lfsrFeedback_shiftLeft_toNat x (by decide)]
  rfl

/-- R421 by arithmetic: the register clocked, in both modes. -/
theorem lfsrClock_toNat (p : Fin 2) (r : BitVec 15) :
    let x := r.toNat
    let fb := (x + x / 2) % 2
    let y := x / 2 + 16384 * fb
    (lfsrClock p r).toNat = if p = 1 then y - y / 64 % 2 * 64 + 64 * fb else y := by
  intro x fb y
  have hfb : (lfsrFeedback r).toNat = fb := lfsrFeedback_toNat r
  have hy : (lfsrShifted r).toNat = y := by rw [lfsrShifted_toNat, hfb]
  rw [lfsrClock_eq, apply_ite BitVec.toNat, toNat_replaceBitSix, hy, hfb]

/-- R422: the noise's sign is the register's low bit. -/
theorem noiseValue_eq (amp : Int) (x : BitVec 15) : noiseValue amp x = if x.toNat % 2 = 0 then amp else -amp := by
  have hbit : x &&& 1#15 = 0#15 ↔ x.toNat % 2 = 0 := by
    rw [← BitVec.toNat_inj, BitVec.toNat_and]
    exact Nat.and_one_is_mod x.toNat ▸ Iff.rfl
  exact if_congr hbit rfl rfl

/-! ### The size of a synthetic sample (R406) -/

theorem squareValue_abs (amp : Int) (d : Fin 4) (phase : Word32) : |squareValue amp d phase| = |amp| := by
  unfold squareValue
  split
  · rfl
  · exact abs_neg amp

theorem noiseValue_abs (amp : Int) (x : BitVec 15) : |noiseValue amp x| = |amp| := by
  unfold noiseValue
  split
  · rfl
  · exact abs_neg amp

/-- R417: a nibble less 8 is at most 8 in size. -/
theorem waveValue_abs_le (w : Vector Byte 16) (phase : Word32) : |waveValue 8192 w phase| ≤ 8192 := by
  have hn := waveNibble_lt w (phase.toNat / 134217728)
  rw [waveValue_reference, abs_le]
  omega

/-- An amplitude of 8192 is far inside the range of a sample. -/
theorem isS16_of_abs_le {x : Int} (h : |x| ≤ 8192) : isS16 x := by
  rw [abs_le] at h
  exact ⟨by omega, by omega⟩

/-! ### The range of a PCM sample (R380 to R386) -/

/-- R381, R382: a PCM8 sample is scaled into the range, a PCM16 sample is an s16 as it stands. -/
theorem regionSample_isS16 (rom : Memory) (g : Region) (j : Nat) : isS16 (regionSample rom g j) := by
  unfold regionSample isS16
  split
  · generalize BitVec.ofNat 8 _ = b
    have hlo := b.le_toInt
    have hhi := b.toInt_le
    omega
  · generalize BitVec.ofNat 16 _ = b
    have hlo := b.le_toInt
    have hhi := b.toInt_le
    omega

/-- R386: the interpolated sample lies between its two ends. -/
theorem interpolated_isS16 {a b : Int} (ha : isS16 a) (hb : isS16 b) (f : Half) :
    isS16 (a + (b - a) * (f.toNat : Int) / 65536) := by
  obtain ⟨halo, hahi⟩ := ha
  obtain ⟨hblo, hbhi⟩ := hb
  have hf : (f.toNat : Int) ≤ 65536 := by have := f.isLt; omega
  have hf0 : (0 : Int) ≤ f.toNat := Int.natCast_nonneg _
  generalize (f.toNat : Int) = t at hf hf0
  have hweighted : a * 65536 + (b - a) * t = a * (65536 - t) + b * t := by ring
  have hlo : -32768 * 65536 ≤ a * 65536 + (b - a) * t := by rw [hweighted]; nlinarith
  have hhi : a * 65536 + (b - a) * t ≤ 32767 * 65536 := by rw [hweighted]; nlinarith
  unfold isS16
  omega

/-- R353, R363: every decoded predictor is clamped, so only the one the decoder starts from is asked to be an s16. -/
theorem Codec.advanceBy_pred_isS16 (P : Profile) (rom : Memory) (g : Region) (n : Nat) {q : Codec} (h : isS16 q.pred) :
    isS16 (Codec.advanceBy P rom g n q).pred := by
  cases n with
  | zero => exact h
  | succ n =>
    rw [Codec.advanceBy_succ]
    exact Codec.decode_pred_bounds ..

/-- R380: a PCM channel's sample is an s16 in every format and mode. -/
theorem resample_isS16 (P : Profile) (rom : Memory) (g : Region) (ch : Channel) (h : isS16 ch.codec.pred) :
    isS16 (resample P rom g ch).1 := by
  by_cases hf : g.format = .adpcm
  · rw [resample_adpcm P rom ch hf]
    exact Codec.advanceBy_pred_isS16 P rom g _ h
  · cases hi : P.interp with
    | carry =>
      rw [resample_carry P rom hf hi]
      exact regionSample_isS16 ..
    | linear =>
      rw [resample_interpolated P rom hf hi]
      exact interpolated_isS16 (regionSample_isS16 ..) (regionSample_isS16 ..) ch.frac

/-! ### One rendered sample of any class (R471) -/

theorem renderChannel_isS16 {P : Profile} (hamp : P.synthAmp = 8192) (rom : Memory) (ch : Channel) (h : isS16 ch.codec.pred) :
    isS16 (renderChannel P rom ch).1 := by
  unfold renderChannel
  split
  · exact isS16_of_abs_le (by simp)
  · rw [hamp]
    split
    · exact resample_isS16 P rom _ ch h
    · exact isS16_of_abs_le (squareValue_abs ..).le
    · exact isS16_of_abs_le (waveValue_abs_le ..)
    · exact isS16_of_abs_le (noiseValue_abs ..).le

/-- Rendering writes the render fields, and besides these it can only kill the channel (R384, R388, R405, R421). -/
theorem renderChannel_writes (P : Profile) (rom : Memory) (ch : Channel) :
    ∃ q : Channel,
      q = { ch with pos := q.pos, frac := q.frac, phase := q.phase, lfsr := q.lfsr, codec := q.codec } ∧
        ((renderChannel P rom ch).2 = q ∨ (renderChannel P rom ch).2 = { q with state := .dead, owner := none }) := by
  obtain ⟨st, o, pos, frac, phase, lfsr, q, -, -, hout⟩ := renderChannel_frame P rom ch
  have hlife := renderChannel_life ch P rom
  rw [hout] at hlife ⊢
  refine ⟨{ ch with pos := pos, frac := frac, phase := phase, lfsr := lfsr, codec := q }, rfl, ?_⟩
  obtain ⟨rfl, rfl⟩ | ⟨rfl, rfl⟩ := hlife
  · exact .inl rfl
  · exact .inr rfl

/-! ### O54 -/

/-- Settles O54: the generators' values read their tables, the register's clock is arithmetic, every class's sample keeps its range, and
rendering writes the render fields or kills. -/
theorem renderValuesAndRange : Obligations.render_values_and_range := by
  refine ⟨fun d ch => ?square, fun w ch => ?wave, fun p ch => ?noise, fun P rom ch hamp hlo hhi => ?rendered, fun d w p ch => ?synthetic⟩
  case square =>
    intro pattern
    have hpattern : dutyPattern d = pattern := dutyPattern_eq_getD d
    rw [← hpattern]
    rfl
  case wave => exact Prod.ext (waveValue_reference w ch.phase) rfl
  case noise =>
    intro x fb y clocked
    refine ⟨noiseValue_eq 8192 ch.lfsr, rfl, ?_⟩
    have hclock : (lfsrClock p ch.lfsr).toNat = clocked := lfsrClock_toNat p ch.lfsr
    rw [renderNoise, apply_ite BitVec.toNat, hclock]
    rfl
  case rendered =>
    obtain ⟨hmin, hmax⟩ := renderChannel_isS16 hamp rom ch ⟨hlo, hhi⟩
    exact ⟨hmin, hmax, renderChannel_writes P rom ch⟩
  case synthetic => exact ⟨(squareValue_abs ..).le, waveValue_abs_le .., (noiseValue_abs ..).le⟩

end Sys2Proof.Machine

end

/-! ## The allocator's choice and ChannelInit (47_mixer_allocator.md R441 to R458) -/

section

namespace Sys2Proof.Machine

variable {P : Profile} {s : State P}

/-! ### The lowest index of a pool (R442, R443, R507) -/

theorem find?_finRange_of_first {n : Nat} {p : Fin n → Bool} {i : Fin n} (hi : p i = true) (hfirst : ∀ j < i, p j = false) :
    (List.finRange n).find? p = some i := by
  rw [List.find?_eq_some_iff_getElem]
  exact ⟨hi, i.val, by simp, by simp, fun j hj => by simpa using hfirst ⟨j, hj.trans i.isLt⟩ hj⟩

theorem firstInState_of_lowest {c : VoiceClass} {e : EnvState} {i : P.Chan} (hc : P.classOf i = c) (he : s.channels[i].state = e)
    (hlow : ∀ j < i, P.classOf j = c → s.channels[j].state ≠ e) : firstInState s c e = some i := by
  unfold firstInState poolOf
  rw [List.find?_filter]
  refine find?_finRange_of_first (by simpa [hc] using he) fun j hj => ?_
  simpa using hlow j hj

/-! ### The four steps of `Allocate` (R442 to R445) -/

theorem allocate_of_idle {c : VoiceClass} {i : P.Chan} (h : firstInState s c .dead = some i) (t : TrackId) :
    allocate s c t = some i := by
  simp only [allocate, h]

theorem allocate_of_releasing {c : VoiceClass} {i : P.Chan} (hidle : firstInState s c .dead = none)
    (h : firstInState s c .releasing = some i) (t : TrackId) : allocate s c t = some i := by
  simp only [allocate, hidle, h]

theorem allocate_of_sounding {c : VoiceClass} (hidle : firstInState s c .dead = none) (hrel : firstInState s c .releasing = none)
    (t : TrackId) : allocate s c t = stealFrom s t (candidateOf s (poolOf P c) none) := by
  simp only [allocate, hidle, hrel]

/-- Settles O26: the pool is searched in index order, for an idle channel first and then for a releasing one. -/
theorem allocateIdleThenReleasing : Obligations.allocate_idle_then_releasing := by
  refine fun s c t i hc => ⟨fun hdead hlow => ?_, fun hrel hidle hlow => ?_⟩
  · exact allocate_of_idle (firstInState_of_lowest hc hdead hlow) t
  · exact allocate_of_releasing ((firstInState_eq_none_iff s c .dead).2 hidle) (firstInState_of_lowest hc hrel hlow) t

/-! ### The candidate (R444, R458) -/

/-- Two tracks have one priority when their registers agree (R43). -/
theorem priorityOf_eq_iff (t u : TrackId) : s.priorityOf t = s.priorityOf u ↔ s.tracks[t].priority = s.tracks[u].priority :=
  BitVec.toNat_inj

theorem poolOf_rising (P : Profile) (c : VoiceClass) : (poolOf P c).Pairwise (· < ·) := (List.pairwise_lt_finRange _).filter _

theorem candidateOf_append (is js : List P.Chan) (best : Option (P.Chan × TrackId)) :
    candidateOf s (is ++ js) best = candidateOf s js (candidateOf s is best) := by
  induction is generalizing best with
  | nil => rfl
  | cons i is ih => simp only [List.cons_append, candidateOf]; split <;> exact ih _

/-- The candidate so far stays while no later channel's owner precedes its own. -/
theorem candidateOf_stays {v : P.Chan} {o : TrackId} (is : List P.Chan)
    (h : ∀ j ∈ is, ∀ p, s.channels[j].owner = some p → ¬ ownerPrecedes s p o = true) :
    candidateOf s is (some (v, o)) = some (v, o) := by
  induction is with
  | nil => rfl
  | cons i is ih =>
    obtain ⟨hi, his⟩ := List.forall_mem_cons.1 h
    cases howner : s.channels[i].owner with
    | none => simp only [candidateOf, howner, ih his]
    | some p => simp only [candidateOf, howner, if_neg (hi p howner), ih his]

/-- A channel whose owner precedes the best one so far, if there is one, takes its place. -/
theorem candidateOf_replaces {v : P.Chan} {o : TrackId} (hv : s.channels[v].owner = some o) (is : List P.Chan)
    {best : Option (P.Chan × TrackId)} (h : ∀ w p, best = some (w, p) → ownerPrecedes s o p = true) :
    candidateOf s (v :: is) best = candidateOf s is (some (v, o)) := by
  cases best with
  | none => simp only [candidateOf, hv]
  | some b => simp only [candidateOf, hv, if_pos (h b.1 b.2 rfl)]

/-- The candidate among channels in rising index is the lowest channel of an owner that every other owner follows. -/
theorem candidateOf_eq {is : List P.Chan} (hrising : is.Pairwise (· < ·)) {v : P.Chan} {o : TrackId} (hmem : v ∈ is)
    (hv : s.channels[v].owner = some o)
    (hleast : ∀ j ∈ is, ∀ p, s.channels[j].owner = some p → ownerPrecedes s o p = true ∨ p = o ∧ v ≤ j) :
    candidateOf s is none = some (v, o) := by
  obtain ⟨before, after, rfl⟩ := List.append_of_mem hmem
  have hbelow : ∀ j ∈ before, j < v := fun j hj => (List.pairwise_append.1 hrising).2.2 j hj v List.mem_cons_self
  rw [candidateOf_append, candidateOf_replaces hv]
  · refine candidateOf_stays after fun j hj p hp => ?_
    obtain hlt | ⟨rfl, -⟩ := hleast j (by simp [hj]) p hp
    · exact not_ownerPrecedes_of_precedes hlt
    · simp [ownerPrecedes_iff]
  · intro w p hbest
    obtain ⟨hw, hp⟩ | hnone := candidateOf_some _ _ hbest
    · obtain hlt | ⟨-, hle⟩ := hleast w (by simp [hw]) p hp
      · exact hlt
      · exact absurd (hbelow w hw) hle.not_gt
    · cases hnone

theorem stealFrom_candidate (s : State P) (t : TrackId) (v : P.Chan) (o : TrackId) :
    stealFrom s t (some (v, o)) =
      if s.priorityOf o < s.priorityOf t ∨ s.tracks[o].priority = s.tracks[t].priority ∧ t ≤ o then some v else none := by
  simp only [stealFrom, priorityOf_eq_iff]
  by_cases hlt : s.priorityOf o < s.priorityOf t
  · rw [if_pos hlt, if_pos (.inl hlt)]
  · simp only [hlt, if_false, false_or]

/-- Settles O27: with none idle or releasing, `Allocate` steals the candidate, the pool's least by R458, or drops. -/
theorem allocateStealsCandidate : Obligations.allocate_steals_candidate := by
  intro s c t v o hsounding hc hv hleast
  have hidle := (firstInState_eq_none_iff s c .dead).2 fun j hj => (hsounding j hj).1
  have hrel := (firstInState_eq_none_iff s c .releasing).2 fun j hj => (hsounding j hj).2
  have hcandidate : candidateOf s (poolOf Profile.reference c) none = some (v, o) := by
    refine candidateOf_eq (poolOf_rising _ c) (mem_poolOf.2 hc) hv fun j hj p hp => ?_
    rw [ownerPrecedes_iff, priorityOf_eq_iff]
    obtain hlt | ⟨heq, hlow | hown⟩ := hleast j p (mem_poolOf.1 hj) hp
    · exact .inl (.inl hlt)
    · exact .inl (.inr ⟨heq, hlow⟩)
    · exact .inr hown
  rw [allocate_of_sounding hidle hrel, hcandidate]
  exact stealFrom_candidate s t v o

/-! ### O21: `ChannelInit` (R311, R352, R452) -/

theorem effective_eq (ovr : Option Byte) (inst : Byte) : effective ovr inst = ovr.getD inst := by cases ovr <;> rfl

/-- At level 0 the amplitude is 0, whatever the volume LFO adds (R335). -/
theorem amplitude_level_zero (t : Track) (velocity : Nat) : amplitude t velocity 0 = 0 := by simp [amplitude]

theorem recomputeGain_level_zero (P : Profile) (t : Track) (i : Instrument) {ch : Channel} (h : ch.level = 0) :
    (recomputeGain P t i ch).gainL = 0 ∧ (recomputeGain P t i ch).gainR = 0 := by
  simp [recomputeGain, h, amplitude_level_zero, asr]

/-- A header's index byte is at most the last step of the reference table (R352). -/
theorem clampIdx_byte (n : Nat) : (clampIdx 89 n).val = min n 88 := by
  simp only [clampIdx, clamp, Fin.ofNat]
  split <;> [skip; split] <;> omega

theorem initCodec_adpcm (P : Profile) (rom : Memory) {i : Instrument} {g : Region} (hi : i.payload = .pcm g) (hg : g.format = .adpcm)
    (q : Codec) : initCodec P rom i q = Codec.init P rom g := by
  simp only [initCodec, hi, if_pos hg]

/-- Settles O21: field by field; the gains by the level of 0, the codec by the header. -/
theorem channelInitFields : Obligations.channel_init_fields := by
  intro rom o t key velocity dur i ch q
  obtain ⟨hgainL, hgainR⟩ : q.gainL = 0 ∧ q.gainR = 0 := recomputeGain_level_zero Profile.reference t i rfl
  refine ⟨rfl, rfl, rfl, rfl, rfl, rfl, effective_eq .., effective_eq .., effective_eq .., effective_eq .., rfl, rfl, rfl, rfl, rfl,
    hgainL, hgainR, rfl, fun g hi hg => ?_⟩
  have hcodec : q.codec = Codec.init Profile.reference rom g := initCodec_adpcm Profile.reference rom hi hg ch.codec
  rw [hcodec]
  exact ⟨rfl, clampIdx_byte _, rfl, rfl⟩

end Sys2Proof.Machine

end

/-! ## The fade (47_mixer_allocator.md R476 to R478) -/

section

namespace Sys2Proof.Machine

variable {k N : Nat}

/-! ### The ramp (R476) -/

/-- The ramp of R476 in Q16: sample n of a rise over N samples, with exponent k. -/
def fadeRamp (k N n : Nat) : Nat := 65536 * n ^ k / N ^ k

theorem fadeGain_fadeOut (k n N : Nat) : fadeGain k (.fadeOut n N) = fadeRamp k N (N - n) := rfl

theorem fadeGain_fadeIn (k n N : Nat) : fadeGain k (.fadeIn n N) = fadeRamp k N n := rfl

theorem fadeRamp_total (k : Nat) (hN : 0 < N) : fadeRamp k N N = 65536 := Nat.mul_div_cancel _ (Nat.pow_pos hN)

theorem fadeRamp_zero (hk : 1 ≤ k) (N : Nat) : fadeRamp k N 0 = 0 := by
  rw [fadeRamp, Nat.zero_pow hk, Nat.mul_zero, Nat.zero_div]

theorem fadeRamp_mono (k N : Nat) {m n : Nat} (h : m ≤ n) : fadeRamp k N m ≤ fadeRamp k N n :=
  Nat.div_le_div_right (Nat.mul_le_mul_left _ (Nat.pow_le_pow_left h k))

/-! ### The duration -/

theorem fadeAdvance_fadeOut (n N : Nat) : fadeAdvance (.fadeOut n N) = if n + 1 = N then .done else .fadeOut (n + 1) N := rfl

theorem fadeAdvance_fadeIn (n N : Nat) : fadeAdvance (.fadeIn n N) = if n + 1 = N then .none else .fadeIn (n + 1) N := rfl

/-- An advance that counts a ramp's samples up to its total and then rests reaches its end with the total, and stays there. -/
theorem iterate_ramp {step : Fade → Fade} {ramp : Nat → Fade} {rest : Fade} (hN : 0 < N)
    (hramp : ∀ n, step (ramp n) = if n + 1 = N then rest else ramp (n + 1)) (hrest : step rest = rest) (n : Nat) :
    step^[n] (ramp 0) = if n < N then ramp n else rest := by
  induction n with
  | zero => rw [if_pos hN]; rfl
  | succ n ih =>
    rw [Function.iterate_succ_apply', ih]
    by_cases hlt : n < N
    · rw [if_pos hlt, hramp]
      by_cases hlast : n + 1 = N
      · rw [if_pos hlast, if_neg (by omega)]
      · rw [if_neg hlast, if_pos (by omega)]
    · rw [if_neg hlt, hrest, if_neg (by omega)]

/-- Settles O55: both gains are one power ramp, read backward by the fade-out, and both advances count it up to its total. -/
theorem fadeLaw : Obligations.fade_law := by
  intro k N hk hN
  refine ⟨?outStart, ?outEnd, ?inStart, ?inEnd, fun n _ => ⟨?falls, ?rises⟩, fun n => ⟨?outEnds, ?inEnds⟩⟩
  case outStart => rw [fadeGain_fadeOut, Nat.sub_zero, fadeRamp_total k hN]; rfl
  case outEnd => rw [fadeGain_fadeOut, Nat.sub_self, fadeRamp_zero hk]; rfl
  case inStart => rw [fadeGain_fadeIn, fadeRamp_zero hk]; rfl
  case inEnd => rw [fadeGain_fadeIn, fadeRamp_total k hN]; rfl
  case falls => exact Int.ofNat_le.2 (fadeRamp_mono k N (by omega))
  case rises => exact Int.ofNat_le.2 (fadeRamp_mono k N (Nat.le_succ n))
  case outEnds => exact iterate_ramp hN (fun n => fadeAdvance_fadeOut n N) rfl n
  case inEnds => exact iterate_ramp hN (fun n => fadeAdvance_fadeIn n N) rfl n

end Sys2Proof.Machine

end

/-! ## The silent frame step and telemetry (20_memory.md R116, 47_mixer_allocator.md R480, 60_exceptions.md R507) -/

section

namespace Sys2Proof.Machine

variable {P : Profile}

theorem frameStep_next {s t : State} {n : Nat} (h : step s = .next t) :
    frameStep (n + 1) s = if t.phase = .boundary then some (.next t) else frameStep n t := by
  simp only [frameStep, h]

/-- R45: the channels of a track in increasing channel index. -/
theorem State.channelsOf_eq (s : State P) (t : TrackId) :
    s.channelsOf t =
      ((List.finRange P.numChannels).filter fun c => decide (s.channels[c].state ≠ .dead ∧ s.channels[c].owner = some t)).map
        fun c => s.channels[c] := by
  have hpool : s.channels.toList = (List.finRange P.numChannels).map fun c => s.channels[c] := List.ext_getElem (by simp) (by simp)
  rw [State.channelsOf, hpool, List.filter_map]
  simp only [Function.comp_def, ← Channel.ownedBy_iff, Bool.decide_eq_true]

/-- A track without a live channel shows no class (R507). -/
theorem State.voiceTypeOf_of_none (s : State P) {t : TrackId}
    (h : ∀ c : P.Chan, ¬ (s.channels[c].state ≠ .dead ∧ s.channels[c].owner = some t)) : s.voiceTypeOf t = none := by
  rw [State.voiceTypeOf, Option.map_eq_none_iff, List.find?_eq_none]
  exact fun c _ => mt (Channel.ownedBy_iff _ t).1 (h c)

/-- A track shows the class of its lowest live channel (R507). -/
theorem State.voiceTypeOf_of_lowest (s : State P) {t : TrackId} {c : P.Chan}
    (hc : s.channels[c].state ≠ .dead ∧ s.channels[c].owner = some t)
    (hlow : ∀ j < c, ¬ (s.channels[j].state ≠ .dead ∧ s.channels[j].owner = some t)) : s.voiceTypeOf t = some (P.classOf c) := by
  have hfirst : (List.finRange P.numChannels).find? (fun j => s.channels[j].ownedBy t) = some c :=
    find?_finRange_of_first ((Channel.ownedBy_iff _ t).2 hc) fun j hj =>
      Bool.eq_false_iff.2 (mt (Channel.ownedBy_iff _ t).1 (hlow j hj))
  rw [State.voiceTypeOf, hfirst, Option.map_some]

theorem telemetryOf_track (s : State P) (t : TrackId) : (telemetryOf s).tracks[t] = s.trackTelemetry t := vecOfFn_fin ..

/-- R270, R480: with nothing to do, the frame step takes the empty queue and outputs silence. -/
theorem frameStep_silent {s : State} (hp : s.phase = .boundary) (hq : s.hostQueue = []) (hm : s.mode ≠ .playing) :
    frameStep 2 s =
      some (.next { s with taken := [], pcmOut := List.replicate Config.samplesPerFrame (0, 0), telemetry := telemetryOf s }) := by
  have hfirst : step s = .next { s with taken := s.hostQueue, hostQueue := [], phase := .host } := step_boundary hp
  have hsecond := step_finishesSilent (s := { s with taken := s.hostQueue, hostQueue := [], phase := .host }) rfl hq hm
  rw [frameStep_next hfirst, if_neg nofun, frameStep_next hsecond, if_pos rfl]
  cases s
  cases hp
  cases hq
  rfl

/-- Settles O40: the two model steps of a silent frame step, and each field of telemetry from the state. -/
theorem silentFrameStep : Obligations.silent_frame_step := by
  refine ⟨fun s => frameStep_silent, fun s => ⟨rfl, rfl, ?_, rfl, rfl, fun t => ⟨?_, ?_, ?_⟩⟩⟩
  · show s.maxTicks = _
    unfold State.maxTicks
    cases s.song <;> rfl
  · rw [telemetryOf_track, State.trackTelemetry, State.channelsOf_eq, List.map_map]
    rfl
  · rw [telemetryOf_track]
    exact s.voiceTypeOf_of_none
  · rw [telemetryOf_track]
    exact fun c => s.voiceTypeOf_of_lowest

end Sys2Proof.Machine

end

/-! ## The byte spaces and the output port (20_memory.md R100, R105, R114, 47_mixer_allocator.md R474) -/

section

namespace Sys2Proof.Machine

variable {P : Profile} {s t : State P}

/-! ### Where a sequence comes from (R114, R500, R501) -/

/-- A move queues no host command: what waits after it waited before (R500). -/
theorem Move.commands_subset (m : Move s t) : t.hostQueue ++ t.taken ⊆ s.hostQueue ++ s.taken := by
  cases m with
  | frameBegins => exact List.subset_append_left s.hostQueue s.taken
  | shutsDown => exact List.append_subset.2 ⟨List.subset_append_left .., List.nil_subset _⟩
  | commandIgnored _ cs _ hc | playStarts cs _ hc | playResumes cs _ hc | stops cs _ hc | pauses cs _ hc | seekStarts cs _ _ hc
  | fadesIn cs _ hc | loads cs _ _ _ hc | loadFails cs _ _ _ hc =>
    rw [hc]
    exact ((List.sublist_cons_self _ cs).append_left s.hostQueue).subset
  | runs _ _ _ _ hx => rw [execute_frame hx]; exact List.Subset.refl _
  | tickEnds => rw [loopCheck_frame]; exact List.Subset.refl _
  | finishesPlayed => obtain h | h := endCheck_cases s.afterQuantum <;> rw [h] <;> exact List.Subset.refl _
  | accumulates | finishesSilent | passNext | passEndsInPlay | passEndsInSeek | frameTickBegins | seekTickBegins | seekEnds |
    trackTicks | tickNext => exact List.Subset.refl _

/-- A move keeps the sequence, or installs that of the song it loads (R114, R501). -/
theorem Move.seqRom_cases (m : Move s t) :
    t.seqRom = s.seqRom ∨ ∃ song, .loadSong song ∈ s.taken ∧ song.rom.len ≤ P.seqSizeMax ∧ t.seqRom = song.rom := by
  cases m with
  | loads cs song _ _ hc hlen | loadFails cs song _ _ hc hlen =>
    exact .inr ⟨song, hc ▸ List.mem_cons_self, hlen, rfl⟩
  | runs _ _ _ _ hx => exact .inl (execute_seqRom hx)
  | tickEnds => exact .inl (loopCheck_seqRom _)
  | finishesPlayed => obtain h | h := endCheck_cases s.afterQuantum <;> rw [h] <;> exact .inl rfl
  | frameBegins | commandIgnored | playStarts | playResumes | stops | pauses | seekStarts | fadesIn | shutsDown | accumulates |
    finishesSilent | passNext | passEndsInPlay | passEndsInSeek | frameTickBegins | seekTickBegins | seekEnds | trackTicks |
    tickNext => exact .inl rfl

theorem State.memoryWf_iff (s : State) :
    s.memoryWf ↔
      s.seqRom.wf = true ∧ s.sampleRom.wf = true ∧ s.seqRom.len ≤ Config.seqSizeMax ∧ s.sampleRom.len ≤ sampleSpace ∧
        ∀ c ∈ s.hostQueue ++ s.taken, HostCmd.wf c = true := by
  simp only [State.memoryWf, List.all_eq_true, List.forall_mem_append]

theorem Move.keeps_memoryWf {s t : State} (m : Move s t) (h : s.memoryWf) : t.memoryWf := by
  rw [State.memoryWf_iff] at h ⊢
  obtain ⟨hseq, hsample, hseqLen, hsampleLen, hcommands⟩ := h
  have hcommands' : ∀ c ∈ t.hostQueue ++ t.taken, c.wf = true := fun c hc => hcommands c (m.commands_subset hc)
  rw [m.sampleRom_eq]
  obtain hrom | ⟨song, hmem, hlen, hrom⟩ := m.seqRom_cases <;> rw [hrom]
  · exact ⟨hseq, hsample, hseqLen, hsampleLen, hcommands'⟩
  · exact ⟨hcommands (.loadSong song) (List.mem_append_right _ hmem), hsample, hlen, hsampleLen, hcommands'⟩

/-! ### What the output port shows (R474, R480) -/

/-- A move leaves the output port alone, or puts a silent or a rendered quantum there. -/
theorem Move.pcmOut_cases (m : Move s t) :
    t.pcmOut = s.pcmOut ∨ t.pcmOut = silentQuantum P ∨ t.pcmOut = s.afterQuantum.pcmOut := by
  cases m with
  | finishesSilent => exact .inr (.inl rfl)
  | finishesPlayed => exact .inr (.inr (endCheck_pcmOut s.afterQuantum))
  | runs _ _ _ _ hx => rw [execute_frame hx]; exact .inl rfl
  | tickEnds => rw [loopCheck_frame]; exact .inl rfl
  | frameBegins | commandIgnored | playStarts | playResumes | stops | pauses | seekStarts | fadesIn | shutsDown | loads | loadFails |
    accumulates | passNext | passEndsInPlay | passEndsInSeek | frameTickBegins | seekTickBegins | seekEnds | trackTicks | tickNext =>
    exact .inl rfl

theorem renderSamples_isS16 (P : Profile) (rom : Memory) (mask : Half) (n : Nat) (chs : List Channel) (fade : Fade) :
    ∀ p ∈ (renderSamples P rom mask n chs fade).2.2, isS16 p.1 ∧ isS16 p.2 := by
  induction n generalizing chs fade with
  | zero => nofun
  | succ n ih => exact List.forall_mem_cons.2 ⟨⟨clampS16_bounds _, clampS16_bounds _⟩, ih _ _⟩

theorem State.afterQuantum_isS16 (s : State P) : ∀ p ∈ s.afterQuantum.pcmOut, isS16 p.1 ∧ isS16 p.2 :=
  fun p => renderSamples_isS16 _ _ _ _ _ _ p

theorem State.outputInRange_iff (s : State) :
    s.outputInRange ↔
      (s.pcmOut = [] ∨ s.pcmOut.length = Config.samplesPerFrame) ∧ ∀ p ∈ s.pcmOut, isS16 p.1 ∧ isS16 p.2 := by
  simp only [State.outputInRange, isS16, and_assoc]

theorem Move.keeps_outputInRange {s t : State} (m : Move s t) (h : s.outputInRange) : t.outputInRange := by
  rw [State.outputInRange_iff] at h ⊢
  obtain hout | hout | hout := m.pcmOut_cases <;> rw [hout]
  · exact h
  · refine ⟨.inr List.length_replicate, fun p hp => ?_⟩
    rw [List.eq_of_mem_replicate hp]
    exact ⟨clampS16_bounds 0, clampS16_bounds 0⟩
  · exact ⟨.inr s.afterQuantum_length, s.afterQuantum_isS16⟩

/-- Settles O33: a move takes a sequence only from a waiting song, and writes the output port only a quantum at a time. -/
theorem stepKeepsMemoryAndOutputForm : Obligations.step_keeps_memory_and_output_form :=
  fun _ _ h => ⟨(advance_move h).keeps_memoryWf, (advance_move h).keeps_outputInRange⟩

end Sys2Proof.Machine

end

/-! ## Stop, Pause, FadeIn, ShutDown and LoadSong (60_exceptions.md R491, R501, R503, R504, R506, R508) -/

section

namespace Sys2Proof.Machine

variable {P : Profile} {s : State P}

/-! ### O43 -/

/-- R503: `StopAll` is the rewind, and the mode that the installed table decides. -/
theorem State.stopAll_eq_rewind (s : State P) :
    s.stopAll = { s.rewind with mode := if s.song = none then .noSong else .stopped } := by
  unfold State.stopAll
  cases s.song <;> rfl

/-- R503: `Stop` acts on a song that plays or is paused. -/
theorem performStop_eq (s : State P) :
    performStop s = .next (if s.mode = .playing ∨ s.mode = .paused then s.stopAll else s) := by
  cases hm : s.mode <;> simp [performStop, hm]

/-- R504: `Pause` acts on a song that plays. -/
theorem performPause_eq (s : State P) :
    performPause s = .next (if s.mode = .playing then { s with mode := .paused } else s) := by
  cases hm : s.mode <;> simp [performPause, hm]

/-- R506: `FadeIn` acts on a song that plays or is paused. -/
theorem performFadeIn_eq (s : State P) :
    performFadeIn s =
      .next (if s.mode = .playing ∨ s.mode = .paused then { s with fade := beginFadeIn P.fadeSamples } else s) := by
  cases hm : s.mode <;> simp [performFadeIn, hm]

/-- Settles O43: the three commands by the mode; `ShutDown` asks for none. -/
theorem stopPauseFadeInShutDown : Obligations.stop_pause_fade_in_shut_down := by
  refine fun s => ⟨(performStop_eq s).trans ?_, performPause_eq s, performFadeIn_eq s, rfl⟩
  rw [State.stopAll_eq_rewind]
  rfl

/-! ### O46: what is loaded into does not decide what the load answers (R180) -/

/-- R501: a load that succeeds installs its table. -/
theorem performLoad_of_ok {song : Song} {g : SongTable} (hlen : song.rom.len ≤ P.seqSizeMax) (hg : load s song = .ok g) :
    performLoad song s = .next { s.unload song with song := some g, loadStatus := .ok, mode := .stopped } := by
  have hload : load (s.unload song) song = .ok g := (loadIsPure ..).trans hg
  simp only [performLoad, if_neg (Nat.not_lt.2 hlen), hload]

/-- R491: a load that fails records its error and installs nothing. -/
theorem performLoad_of_error {song : Song} {e : LoadError} (hlen : song.rom.len ≤ P.seqSizeMax)
    (he : load s song = .error (.error e)) : performLoad song s = .next { s.unload song with loadStatus := .failed e } := by
  have hload : load (s.unload song) song = .error (.error e) := (loadIsPure ..).trans he
  simp only [performLoad, if_neg (Nat.not_lt.2 hlen), hload]

/-- Settles O46: the load from the stopped state is the load from the state itself, by O58, and `LoadSong` answers its two outcomes. -/
theorem loadOutcome : Obligations.load_outcome :=
  fun _ _ hlen => ⟨fun _ => performLoad_of_ok hlen, fun _ => performLoad_of_error hlen⟩

end Sys2Proof.Machine

end

/-! ## The state after PowerOn (70_reset_and_hazards.md R530) -/

section

namespace Sys2Proof.Machine

theorem reset_track (t : TrackId) : State.reset.tracks[t] = Track.reset none := Vector.getElem_replicate ..

theorem reset_channel (c : ChanId) : State.reset.channels[c] = Channel.reset := Vector.getElem_replicate ..

theorem reset_startTable (t : TrackId) : State.reset.startTable[t] = none := Vector.getElem_replicate ..

theorem reset_entryAt (t : TrackId) (p : Nat) : State.reset.entryAt t p = none := entryAt_of_none rfl t p

/-- Settles O38: the registers by the definition of PowerOn, the elements of its replicated vectors by their lemmas. -/
theorem resetValues : Obligations.reset_values :=
  ⟨rfl, rfl, rfl, rfl, rfl, rfl, rfl, rfl, rfl, rfl, rfl, reset_entryAt, rfl, rfl, rfl, reset_track, reset_channel⟩

/-! ### O39: no song, every track as `TrackReset` left it and every channel dead -/

/-- With nothing in the command list, every statement about its entries holds. -/
theorem reset_entry_elim {p : TrackId → Nat → Entry → Prop} (t : TrackId) (x : Nat) (e : Entry)
    (he : State.reset.entryAt t x = some e) : p t x e := by
  rw [reset_entryAt] at he
  cases he

theorem reset_tableClosed : State.reset.tableClosed := by
  refine ⟨fun t x hx => ?_, reset_entry_elim⟩
  rw [reset_startTable] at hx
  cases hx

/-- R42: the cursors are not held to commands, for no song is in play. -/
theorem reset_cursorsNameCommands : State.reset.cursorsNameCommands := ⟨reset_tableClosed, nofun⟩

theorem reset_tracksInRange : State.reset.tracksInRange := by
  intro t
  rw [reset_track]
  exact Track.reset_inRange none

theorem reset_ownersMatchLife : State.reset.ownersMatchLife := by
  intro c
  rw [reset_channel]
  exact iff_of_true rfl rfl

theorem reset_channelsInRange : State.reset.channelsInRange := by
  intro c
  rw [reset_channel]
  simp [Channel.inRange, Channel.reset, Codec.inRange, isS16]

theorem reset_instrumentsMatchPools : State.reset.instrumentsMatchPools := by
  intro c hlive
  rw [reset_channel] at hlive
  cases hlive

theorem reset_channelsRenderable : State.reset.channelsRenderable := by
  intro c
  rw [reset_channel]
  exact Channel.renderable_of_dead _ rfl

/-- R100, R105: both byte spaces are empty and no song waits. -/
theorem reset_memory_and_queues_wf : State.reset.memoryWf :=
  ⟨reset_memoryWf.1, reset_memoryWf.2, Nat.zero_le _, Nat.zero_le _, rfl, rfl⟩

/-- Settles O39: the table's invariants from the empty command list, the tracks' and the channels' from what each is after PowerOn, and the
engine's from its registers. -/
theorem resetMeetsInvariants : Obligations.reset_meets_invariants :=
  have houtput : State.reset.outputInRange := ⟨.inl rfl, nofun⟩
  have hmode : State.reset.modeMatchesSong := ⟨iff_of_true rfl rfl, nofun⟩
  have htempo : State.reset.tempoStackBelow := fun _ => by decide
  have hseeking : State.reset.seekingMatchesPhase := rfl
  have helapsed : State.reset.elapsedWithinSong := nofun
  have hloop : State.reset.loopStartsBeforeEnd := nofun
  ⟨reset_ownersMatchLife, reset_cursorsNameCommands, reset_tracksInRange, reset_entry_elim, reset_entry_elim, reset_memory_and_queues_wf,
    houtput, hmode, htempo, hseeking, helapsed, hloop, reset_channelsInRange, reset_instrumentsMatchPools, reset_channelsRenderable⟩

end Sys2Proof.Machine

end
